-- ==== Sys2Proof/Word.lean ====
section
/-! DEFINITION. The words of the digest engine (spec/00_scope.md R7, R10 to R12): a byte is 8 bits, a word 32,
the length and the block counter 64; every quantity is unsigned. The five digest words and the five working
registers are each a structure with one field per register, and XRET's three legal codes are a type of their own. -/

namespace Sys2Proof

/-- R10: "A *byte* is 8 bits". -/
abbrev Byte := BitVec 8

/-- R10: "a *word* is 32 bits". -/
abbrev Word := BitVec 32

/-- The 64-bit quantities: NBLK (R24) and LENBITS (R28). -/
abbrev DWord := BitVec 64

/-- R21: the five digest words H[0] to H[4]. -/
structure HWords where
  h0 : Word
  h1 : Word
  h2 : Word
  h3 : Word
  h4 : Word
  deriving DecidableEq, Repr

/-- R26: the five working registers A, B, C, D, E. -/
structure Working where
  a : Word
  b : Word
  c : Word
  d : Word
  e : Word
  deriving DecidableEq, Repr

/-- R30: the legal values of the 2-bit return selector XRET: UPD (0b00), SPILL (0b01), LAST (0b10).
The fourth code 0b11 is reserved and the type excludes it (R79; 93_implementation_defined.md U6: "the model's
state type excludes them"; log entry 9). -/
inductive XRet where
  | upd
  | spill
  | last
  deriving DecidableEq, Repr, Inhabited

end Sys2Proof
end

