-- ==== Sys2Proof/Config.lean ====
section
/-! DEFINITION. What the spec leaves open. Each opaque constant here has no body, so no proof can see a value of it, and
a theorem holds whatever it is. The free values are applied to the model's own counter State.free (log entry 3). The
number of engines is the one open parameter with a rule that uses it (R9, R172); every size is fixed (R7). -/

namespace Sys2Proof

/-- A byte the spec calls unspecified: a BUF cell that is no part of the state (R22, U4), a DIGEST cell after
hardware reset (R181). -/
opaque Config.freeByte : Nat → Byte

/-- A word the spec calls unspecified: A to E and W[0..15] after hardware reset (R181, U3). -/
opaque Config.freeWord : Nat → Word

/-- LENBITS after hardware reset (R181, U3). -/
opaque Config.freeDWord : Nat → DWord

/-- CMDREG after hardware reset (R181, U8). -/
opaque Config.freeCmd : Nat → BitVec 10

/-- XRET after hardware reset (R181, U8). -/
opaque Config.freeXRet : Nat → XRet

/-- The sequencer word after an F.ZERO whose XRET is UPD: R78 has no row for it (R30: "F.ZERO does not occur"). -/
opaque Config.freeSeq : Nat → BitVec 11

/-- How many engines there are beside the first (R9, U14). -/
opaque Config.moreInstances : Nat

/-- R9, R172: the parameter N_INSTANCES, a positive integer that the spec leaves open. -/
def Config.nInstances : Nat := Config.moreInstances + 1

end Sys2Proof
end

