-- ==== Sys2Proof/Syntax.lean ====
section
/-! DEFINITION. The instructions: one constructor per row of spec/opcode_table.json. The four commands of format
CMD (spec/30_encoding.md R72) carry their 8-bit data field, which only UPDATE uses (R73, R74) but which every
acceptance puts into CMDREG (R75). The sixteen words of format SEQ (R77) are IDLE and the fifteen
micro-operations; the four X.ROUND rows carry the round R within their stage. -/

namespace Sys2Proof

inductive Instr where
  /-- NOP, R100. -/
  | nop (data : Byte)
  /-- UPDATE x, R110. -/
  | update (data : Byte)
  /-- FINALIZE, R140. -/
  | finalize (data : Byte)
  /-- RESET, R101. -/
  | reset (data : Byte)
  /-- IDLE: no micro-operation, no command accepted, R75 and R78. -/
  | idle
  /-- E.INIT, R102. -/
  | eInit
  /-- B.APPEND, R111. -/
  | bAppend
  /-- B.RETIRE, R112. -/
  | bRetire
  /-- X.LOAD, R120. -/
  | xLoad
  /-- X.ROUND.CH at round R of stage 0, R122. -/
  | xRoundCh (r : BitVec 5)
  /-- X.ROUND.PAR1 at round R of stage 1, R123. -/
  | xRoundPar1 (r : BitVec 5)
  /-- X.ROUND.MAJ at round R of stage 2, R124. -/
  | xRoundMaj (r : BitVec 5)
  /-- X.ROUND.PAR2 at round R of stage 3, R125. -/
  | xRoundPar2 (r : BitVec 5)
  /-- X.ADD, R127. -/
  | xAdd
  /-- F.LATCH, R141. -/
  | fLatch
  /-- F.TERM, R142. -/
  | fTerm
  /-- F.ZERO, R143. -/
  | fZero
  /-- F.SPILL, R144. -/
  | fSpill
  /-- F.LEN, R145. -/
  | fLen
  /-- F.OUT, R146. -/
  | fOut
  deriving DecidableEq, Repr

/-- R70: the two encoded formats. -/
inductive Format where
  /-- CMD, 10 bits, decoded at the command port. -/
  | cmd
  /-- SEQ, 11 bits, decoded by the sequencer at every step. -/
  | seq
  deriving DecidableEq, Repr

/-- R70: which format an instruction's word has. -/
def Instr.format : Instr → Format
  | .nop _ => .cmd
  | .update _ => .cmd
  | .finalize _ => .cmd
  | .reset _ => .cmd
  | .idle => .seq
  | .eInit => .seq
  | .bAppend => .seq
  | .bRetire => .seq
  | .xLoad => .seq
  | .xRoundCh _ => .seq
  | .xRoundPar1 _ => .seq
  | .xRoundMaj _ => .seq
  | .xRoundPar2 _ => .seq
  | .xAdd => .seq
  | .fLatch => .seq
  | .fTerm => .seq
  | .fZero => .seq
  | .fSpill => .seq
  | .fLen => .seq
  | .fOut => .seq

/-- The row's mnemonic in spec/opcode_table.json. -/
def Instr.mnemonic : Instr → String
  | .nop _ => "NOP"
  | .update _ => "UPDATE"
  | .finalize _ => "FINALIZE"
  | .reset _ => "RESET"
  | .idle => "IDLE"
  | .eInit => "E.INIT"
  | .bAppend => "B.APPEND"
  | .bRetire => "B.RETIRE"
  | .xLoad => "X.LOAD"
  | .xRoundCh _ => "X.ROUND.CH"
  | .xRoundPar1 _ => "X.ROUND.PAR1"
  | .xRoundMaj _ => "X.ROUND.MAJ"
  | .xRoundPar2 _ => "X.ROUND.PAR2"
  | .xAdd => "X.ADD"
  | .fLatch => "F.LATCH"
  | .fTerm => "F.TERM"
  | .fZero => "F.ZERO"
  | .fSpill => "F.SPILL"
  | .fLen => "F.LEN"
  | .fOut => "F.OUT"

end Sys2Proof
end

