-- ==== Sys2Proof/WellFormed.lean ====
section
/-! DEFINITION. Which terms of Instr are instructions of the machine: the round operand R of an X.ROUND is 0 to 19
(spec/30_encoding.md R77: "the R field ... must be 0 to 19"); 20 to 31 are reserved (R79). Every other operand is a
data byte, and R74 and R110 make every byte legal. -/

namespace Sys2Proof

/-- R77: a round index within a stage. -/
def roundLegal (r : BitVec 5) : Bool := r.toNat ≤ 19

def Instr.wf : Instr → Bool
  | .nop _ => true
  | .update _ => true
  | .finalize _ => true
  | .reset _ => true
  | .idle => true
  | .eInit => true
  | .bAppend => true
  | .bRetire => true
  | .xLoad => true
  | .xRoundCh r => roundLegal r
  | .xRoundPar1 r => roundLegal r
  | .xRoundMaj r => roundLegal r
  | .xRoundPar2 r => roundLegal r
  | .xAdd => true
  | .fLatch => true
  | .fTerm => true
  | .fZero => true
  | .fSpill => true
  | .fLen => true
  | .fOut => true

end Sys2Proof
end

