-- ==== Sys2Proof/Decode.lean ====
section
/-! DEFINITION. The decoder of both formats and the encoder, from spec/30_encoding.md R70 to R79.
A CMD word always decodes (R72: "Every 10-bit word selects exactly one row"); a SEQ word that R79 reserves is
rejected by name. -/

namespace Sys2Proof

/-- An encoded word with its format; "A decoder tells the length of a word from its format alone" (R70). -/
inductive CodeWord where
  | cmd (w : BitVec 10)
  | seq (w : BitVec 11)
  deriving DecidableEq, Repr

/-- Why a SEQ word is no instruction (R79). -/
inductive DecodeError where
  /-- UOP 0b1101, 0b1110 or 0b1111. -/
  | reservedUop (uop : BitVec 4)
  /-- UOP is not X.ROUND and (STAGE, R) is not (0, 0). -/
  | reservedStageRound (stage : BitVec 2) (r : BitVec 5)
  /-- UOP is X.ROUND and R is 20 to 31. -/
  | reservedRound (stage : BitVec 2) (r : BitVec 5)
  deriving DecidableEq, Repr

/-- R72: bits 9:8. -/
def cmdOp (w : BitVec 10) : BitVec 2 := w.extractLsb' 8 2
/-- R72: bits 7:0. -/
def cmdData (w : BitVec 10) : Byte := w.extractLsb' 0 8
/-- R72: `op` in bits 9:8 above `data` in bits 7:0. -/
def cmdWord (op : BitVec 2) (data : Byte) : BitVec 10 := op ++ data

/-- R76: bits 10:7. -/
def seqUop (w : BitVec 11) : BitVec 4 := w.extractLsb' 7 4
/-- R76: bits 6:5. -/
def seqStage (w : BitVec 11) : BitVec 2 := w.extractLsb' 5 2
/-- R76: bits 4:0. -/
def seqR (w : BitVec 11) : BitVec 5 := w.extractLsb' 0 5
/-- R76: the three fields as one word. -/
def seqWord (uop : BitVec 4) (stage : BitVec 2) (r : BitVec 5) : BitVec 11 := uop ++ stage ++ r

/-- R72, R74: every CMD word is one of the four commands. -/
def decodeCmd (w : BitVec 10) : Instr :=
  match (cmdOp w).toNat with
  | 0 => .nop (cmdData w)
  | 1 => .update (cmdData w)
  | 2 => .finalize (cmdData w)
  | _ => .reset (cmdData w)

/-- R77: the X.ROUND rows, by STAGE. -/
def decodeRound (stage : BitVec 2) (r : BitVec 5) : Instr :=
  match stage.toNat with
  | 0 => .xRoundCh r
  | 1 => .xRoundPar1 r
  | 2 => .xRoundMaj r
  | _ => .xRoundPar2 r

/-- R77: the rows other than X.ROUND, by UOP; none for a UOP without a row. -/
def decodeUop (uop : BitVec 4) : Option Instr :=
  match uop.toNat with
  | 0 => some .idle
  | 1 => some .eInit
  | 2 => some .bAppend
  | 3 => some .bRetire
  | 4 => some .xLoad
  | 6 => some .xAdd
  | 7 => some .fLatch
  | 8 => some .fTerm
  | 9 => some .fZero
  | 10 => some .fSpill
  | 11 => some .fLen
  | 12 => some .fOut
  | _ => none

/-- R76, R77, R79: the micro-operation a sequencer word names, or why it is reserved. -/
def decodeSeqFields (uop : BitVec 4) (stage : BitVec 2) (r : BitVec 5) : Except DecodeError Instr :=
  if uop = 0b0101#4 then
    if r.toNat ≤ 19 then .ok (decodeRound stage r) else .error (.reservedRound stage r)
  else
    match decodeUop uop with
    | none => .error (.reservedUop uop)
    | some i => if stage = 0 ∧ r = 0 then .ok i else .error (.reservedStageRound stage r)

def decodeSeq (w : BitVec 11) : Except DecodeError Instr :=
  decodeSeqFields (seqUop w) (seqStage w) (seqR w)

/-- The decoder, total on both formats. -/
def decode : CodeWord → Except DecodeError Instr
  | .cmd w => .ok (decodeCmd w)
  | .seq w => decodeSeq w

/-- The encoder: R72 for the commands, R76 and R77 for the sequencer words. -/
def encode : Instr → CodeWord
  | .nop d => .cmd (cmdWord 0b00#2 d)
  | .update d => .cmd (cmdWord 0b01#2 d)
  | .finalize d => .cmd (cmdWord 0b10#2 d)
  | .reset d => .cmd (cmdWord 0b11#2 d)
  | .idle => .seq (seqWord 0b0000#4 0 0)
  | .eInit => .seq (seqWord 0b0001#4 0 0)
  | .bAppend => .seq (seqWord 0b0010#4 0 0)
  | .bRetire => .seq (seqWord 0b0011#4 0 0)
  | .xLoad => .seq (seqWord 0b0100#4 0 0)
  | .xRoundCh r => .seq (seqWord 0b0101#4 0b00#2 r)
  | .xRoundPar1 r => .seq (seqWord 0b0101#4 0b01#2 r)
  | .xRoundMaj r => .seq (seqWord 0b0101#4 0b10#2 r)
  | .xRoundPar2 r => .seq (seqWord 0b0101#4 0b11#2 r)
  | .xAdd => .seq (seqWord 0b0110#4 0 0)
  | .fLatch => .seq (seqWord 0b0111#4 0 0)
  | .fTerm => .seq (seqWord 0b1000#4 0 0)
  | .fZero => .seq (seqWord 0b1001#4 0 0)
  | .fSpill => .seq (seqWord 0b1010#4 0 0)
  | .fLen => .seq (seqWord 0b1011#4 0 0)
  | .fOut => .seq (seqWord 0b1100#4 0 0)

/-- A row of the opcode maps of R72 and R77: `w` selects the row when `w AND mask = match`. Both formats are held
in 11 bits here; a CMD row's bit 10 is outside its mask. -/
structure OpcodeRow where
  format : Format
  mnemonic : String
  matchBits : BitVec 11
  mask : BitVec 11
  deriving DecidableEq, Repr

/-- R72's and R77's tables, row by row. -/
def opcodeTable : List OpcodeRow :=
  [⟨.cmd, "NOP", 0x000, 0x300⟩, ⟨.cmd, "UPDATE", 0x100, 0x300⟩,
   ⟨.cmd, "FINALIZE", 0x200, 0x300⟩, ⟨.cmd, "RESET", 0x300, 0x300⟩] ++
  [⟨.seq, "IDLE", 0x000, 0x7FF⟩, ⟨.seq, "E.INIT", 0x080, 0x7FF⟩, ⟨.seq, "B.APPEND", 0x100, 0x7FF⟩,
   ⟨.seq, "B.RETIRE", 0x180, 0x7FF⟩, ⟨.seq, "X.LOAD", 0x200, 0x7FF⟩, ⟨.seq, "X.ROUND.CH", 0x280, 0x7E0⟩,
   ⟨.seq, "X.ROUND.PAR1", 0x2A0, 0x7E0⟩, ⟨.seq, "X.ROUND.MAJ", 0x2C0, 0x7E0⟩,
   ⟨.seq, "X.ROUND.PAR2", 0x2E0, 0x7E0⟩] ++
  [⟨.seq, "X.ADD", 0x300, 0x7FF⟩, ⟨.seq, "F.LATCH", 0x380, 0x7FF⟩, ⟨.seq, "F.TERM", 0x400, 0x7FF⟩,
   ⟨.seq, "F.ZERO", 0x480, 0x7FF⟩, ⟨.seq, "F.SPILL", 0x500, 0x7FF⟩, ⟨.seq, "F.LEN", 0x580, 0x7FF⟩,
   ⟨.seq, "F.OUT", 0x600, 0x7FF⟩]

/-- `w` selects the row `x` of the format `f`. -/
def OpcodeRow.selects (x : OpcodeRow) (f : Format) (w : BitVec 11) : Bool :=
  x.format = f && (w &&& x.mask) = x.matchBits

/-- The table word of the host's interface as an encoded word of this machine. nbits 10 is the width of CMD and
nbits 11 the width of SEQ. Any other nbits (both widths rounded up to whole bytes are 16) leaves the format open:
then a word that is a legal SEQ word is read as one, and otherwise as a CMD word if it fits its 10 bits
(DESIGN CHOICE, log entry 4: the two formats number their words from 0 and share codes such as 0x100). -/
def tableCodeWord (nbits w : Nat) : Option CodeWord :=
  if nbits = 10 then
    if w < 2 ^ 10 then some (.cmd (BitVec.ofNat 10 w)) else none
  else if nbits = 11 then
    if w < 2 ^ 11 then some (.seq (BitVec.ofNat 11 w)) else none
  else if w < 2 ^ 11 then
    match decodeSeq (BitVec.ofNat 11 w) with
    | .ok _ => some (.seq (BitVec.ofNat 11 w))
    | .error _ => if w < 2 ^ 10 then some (.cmd (BitVec.ofNat 10 w)) else none
  else none

/-- The host's question: what the decoder reads from a table word. -/
def decodeTableWord (nbits w : Nat) : Option Instr :=
  match tableCodeWord nbits w with
  | none => none
  | some c =>
    match decode c with
    | .ok i => some i
    | .error _ => none

end Sys2Proof
end

