-- ==== Sys2Proof/Machine/Constants.lean ====
section
/-! DEFINITION. The engine's built-in constants: IV (spec/10_state.md R21), the round constants K (spec/30_encoding.md
R81), the sizes (spec/00_scope.md R7, R8) and the two padding bytes (R81). They are constants of the machine, not
state (R35). -/

namespace Sys2Proof.Machine

/-- R21: the five initialisation constants. -/
def iv : HWords :=
  { h0 := 0x67452301#32, h1 := 0xEFCDAB89#32, h2 := 0x98BADCFE#32, h3 := 0x10325476#32, h4 := 0xC3D2E1F0#32 }

/-- R81: K[0], rounds 0 to 19. -/
def kCh : Word := 0x5A827999#32
/-- R81: K[1], rounds 20 to 39. -/
def kPar1 : Word := 0x6ED9EBA1#32
/-- R81: K[2], rounds 40 to 59. -/
def kMaj : Word := 0x8F1BBCDC#32
/-- R81: K[3], rounds 60 to 79. -/
def kPar2 : Word := 0xCA62C1D6#32

/-- R7: BLOCK_BYTES, the number of BUF cells (R22, R50). -/
def blockBytes : Nat := 64

/-- R7: PAD_POINT. -/
def padPoint : Nat := 56

/-- R8: MAX_NBLK = 2^55 − 1. -/
def maxNblk : DWord := 0x007FFFFFFFFFFFFF#64

/-- R81: the terminator byte. -/
def terminator : Byte := 0x80#8

/-- R81: the fill byte. -/
def fillByte : Byte := 0x00#8

/-- R80: the number of micro-operations of the longest trace, FINALIZE with 56 pending bytes. -/
def maxTrace : Nat := 233

end Sys2Proof.Machine
end

