-- ==== Sys2Proof/Machine/State.lean ====
section
/-! DEFINITION. The state of one engine instance: every row of spec/10_state.md R20, then the two fields that are the
model's own (the host's pin samples still to come, and the counter of free values), the reasons a step can stop, and
the state after reset (R36, R181). -/

namespace Sys2Proof.Machine

/-- R29, R76: the sequencer word SEQ = (UOP, STAGE, R), 4 + 2 + 5 bits. -/
structure Seq where
  uop : BitVec 4
  stage : BitVec 2
  r : BitVec 5
  deriving DecidableEq, Repr

/-- R71: what the host drives on the input ports `rst`, `cmd_valid` and `cmd` at one step of the engine. -/
structure Pins where
  rst : Bool
  cmdValid : Bool
  cmd : BitVec 10
  deriving DecidableEq, Repr

/-- The host drives nothing: `rst = 0`, `cmd_valid = 0`. -/
def Pins.quiet : Pins := { rst := false, cmdValid := false, cmd := 0 }

/-- The host presents the command word `c`. -/
def Pins.command (c : BitVec 10) : Pins := { rst := false, cmdValid := true, cmd := c }

/-- The host asserts `rst`. -/
def Pins.reset : Pins := { rst := true, cmdValid := false, cmd := 0 }

structure State where
  /-- H[0..4], R21. -/
  h : HWords
  /-- BUF[0..63], R22, R50: the cells written so far, in the canonical form Memory.wf; an unlisted cell holds no
  value the spec fixes. -/
  buf : List Host.Cell
  /-- BUFLEN, 7 bits, R23. -/
  buflen : BitVec 7
  /-- NBLK, 64 bits, R24. -/
  nblk : DWord
  /-- A, B, C, D, E, R26. -/
  work : Working
  /-- W[0..15], R27. -/
  w : Vector Word 16
  /-- LENBITS, 64 bits, R28. -/
  lenbits : DWord
  /-- SEQ, R29. -/
  seq : Seq
  /-- XRET, R30. -/
  xret : XRet
  /-- CMDREG, 10 bits, R43. -/
  cmdreg : BitVec 10
  /-- DIGEST[0..19], R31. -/
  digest : Vector Byte 20
  /-- DVALID, R32. -/
  dvalid : Bool
  /-- FAULT, R33. -/
  faultFlag : Bool
  /-- The model's own: what the host drives at the next steps, the next one first; past the end it drives nothing
  (log entry 2). -/
  pins : List Pins
  /-- The model's own: how many free values have been drawn (log entry 3). -/
  free : Nat
  deriving DecidableEq, Repr

/-- Why the machine stops although the instruction is one. -/
inductive Fault where
  /-- Raised by memWrite, so by B.APPEND, F.TERM and F.ZERO when BUFLEN is 64 or more: the write would land outside
  BUF[0..63], the whole address space (R50). Safe: R53 gives no such write, and no state of Inv reaches it. -/
  | bufIndex (index : Nat)
  deriving DecidableEq, Repr

/-- Why a step has no meaning. -/
inductive Refusal where
  /-- Raised by a rejected arm of exec. Safe. -/
  | notModelled (mnemonic : String)
  /-- Raised by fetch on a sequencer word that R79 reserves: "a model refuses a state that holds one" (U6). Safe. -/
  | reservedSeq (why : DecodeError)
  /-- Raised by the meaning of an X.ROUND whose operand R is 20 to 31, which R79 reserves. Safe: the decoder never
  gives such a term. -/
  | reservedRound (r : BitVec 5)
  deriving DecidableEq, Repr

/-- The state right after hardware reset (R181, R36): H = IV, BUFLEN = 0, NBLK = 0, SEQ = (IDLE,0,0), DVALID = 0,
FAULT = 0 are the spec's. A to E, W, LENBITS, XRET, CMDREG and DIGEST are unspecified there: zero, DESIGN CHOICE,
log entry 1. No cell of BUF is listed. -/
def State.reset : State :=
  { h := iv
    buf := []
    buflen := 0
    nblk := 0
    work := { a := 0, b := 0, c := 0, d := 0, e := 0 }
    w := Vector.replicate 16 0
    lenbits := 0
    seq := { uop := 0, stage := 0, r := 0 }
    xret := .upd
    cmdreg := 0
    digest := Vector.replicate 20 0
    dvalid := false
    faultFlag := false
    pins := []
    free := 0 }

end Sys2Proof.Machine
end

