-- ==== Sys2Proof/Machine/Ops.lean ====
section
/-! DEFINITION. The named operations over registers and memory: one setter per field of State, byte lanes and
big-endian order (spec/20_memory.md R51), the buffer's read and write primitives (R52, R53), the sequencer's targets
(spec/30_encoding.md R76 to R78), taking the one exception (spec/60_exceptions.md R161) and hardware reset
(spec/70_reset_and_hazards.md R181). -/

namespace Sys2Proof.Machine

/-! ### One setter per register -/

def State.setH (x : HWords) (s : State) : State := { s with h := x }
def State.setBuf (x : List Host.Cell) (s : State) : State := { s with buf := x }
def State.setBuflen (x : BitVec 7) (s : State) : State := { s with buflen := x }
def State.setNblk (x : DWord) (s : State) : State := { s with nblk := x }
def State.setWork (x : Working) (s : State) : State := { s with work := x }
def State.setW (x : Vector Word 16) (s : State) : State := { s with w := x }
def State.setLenbits (x : DWord) (s : State) : State := { s with lenbits := x }
def State.setSeq (x : Seq) (s : State) : State := { s with seq := x }
def State.setXret (x : XRet) (s : State) : State := { s with xret := x }
def State.setCmdreg (x : BitVec 10) (s : State) : State := { s with cmdreg := x }
def State.setDigest (x : Vector Byte 20) (s : State) : State := { s with digest := x }
def State.setDvalid (x : Bool) (s : State) : State := { s with dvalid := x }
def State.setFault (x : Bool) (s : State) : State := { s with faultFlag := x }
def State.setPins (x : List Pins) (s : State) : State := { s with pins := x }
def State.setFree (x : Nat) (s : State) : State := { s with free := x }

/-! ### Byte lanes, big-endian (R12, R51) -/

/-- R12: byte n of `be32(x)`: n = 0 is `x[31:24]`, n = 3 is `x[7:0]`. -/
def byte32 (x : Word) (n : Nat) : Byte := x.extractLsb' (8 * (3 - n)) 8

/-- R12: `be32(x)`, most significant byte first. -/
def be32 (x : Word) : List Byte := [byte32 x 0, byte32 x 1, byte32 x 2, byte32 x 3]

/-- R12: byte n of `be64(x)`: n = 0 is `x[63:56]`, n = 7 is `x[7:0]`. -/
def byte64 (x : DWord) (n : Nat) : Byte := x.extractLsb' (8 * (7 - n)) 8

/-- R12: `be64(x)`, most significant byte first. -/
def be64 (x : DWord) : List Byte :=
  [byte64 x 0, byte64 x 1, byte64 x 2, byte64 x 3, byte64 x 4, byte64 x 5, byte64 x 6, byte64 x 7]

/-- R12: `word_be(b0, b1, b2, b3)`, the inverse of be32. -/
def wordBE (b0 b1 b2 b3 : Byte) : Word := b0 ++ b1 ++ b2 ++ b3

/-! ### The pending buffer (R22, R50 to R53) -/

/-- The cell at index k, where one is listed. -/
def Memory.lookup : List Host.Cell → Nat → Option Byte
  | [], _ => none
  | (a, b) :: m, k => if a = k then some b else Memory.lookup m k

/-- Writes one cell, keeping the indices rising. -/
def Memory.insert : List Host.Cell → Nat → Byte → List Host.Cell
  | [], k, v => [(k, v)]
  | (a, b) :: m, k, v =>
    if k < a then (k, v) :: (a, b) :: m
    else if k = a then (k, v) :: m
    else (a, b) :: Memory.insert m k v

/-- Writes consecutive cells from index k up. -/
def Memory.store : List Host.Cell → Nat → List Byte → List Host.Cell
  | m, _, [] => m
  | m, k, b :: bs => Memory.store (Memory.insert m k b) (k + 1) bs

/-- All indices lie above `lo` or at it, and rise strictly. -/
def Memory.risingFrom : Nat → List Host.Cell → Bool
  | _, [] => true
  | lo, (a, _) :: m => lo ≤ a && Memory.risingFrom (a + 1) m

/-- The canonical form: indices strictly rising and inside the address space 0 to 63 (R50). An unlisted index reads
as no value, so no entry repeats what an unlisted index reads as (log entry 5). -/
def Memory.wf (m : List Host.Cell) : Bool :=
  Memory.risingFrom 0 m && m.all fun c => c.1 < blockBytes

/-- The model's read of one cell of BUF: none where nothing has been written. -/
def State.cell (s : State) (k : Nat) : Option Byte := Memory.lookup s.buf k

/-- R52, R22: the byte a block read takes at index k. A cell at index ≥ BUFLEN, and one never written, is no part of
the state: a free value (U4, log entry 5). -/
def State.loadByte (s : State) (k : Nat) : Byte :=
  if k < s.buflen.toNat then (s.cell k).getD (Config.freeByte (s.free + k)) else Config.freeByte (s.free + k)

/-- R52: `MemRead(k, 4)`, the bytes BUF[k] to BUF[k+3] as one big-endian word. -/
def State.memRead4 (s : State) (k : Nat) : Word :=
  wordBE (s.loadByte k) (s.loadByte (k + 1)) (s.loadByte (k + 2)) (s.loadByte (k + 3))

/-- R52: all 64 cells hold pending bytes, so that a block read draws no free value. -/
def State.blockWritten (s : State) : Bool :=
  64 ≤ s.buflen.toNat && (List.range 64).all fun k => (s.cell k).isSome

/-- R53: `MemWrite(k, n, v)`, the bytes of v from index k up. An index outside 0 to 63 does not exist (R50). -/
def State.memWrite (s : State) (k : Nat) (bs : List Byte) : Except Fault State :=
  if k + bs.length ≤ blockBytes then .ok (s.setBuf (Memory.store s.buf k bs)) else .error (.bufIndex k)

/-! ### The sequencer word (R76, R77) -/

/-- The sequencer word as the 11 bits of format SEQ. -/
def Seq.word (q : Seq) : BitVec 11 := seqWord q.uop q.stage q.r

/-- The fields of an 11-bit word. -/
def Seq.ofWord (w : BitVec 11) : Seq := { uop := seqUop w, stage := seqStage w, r := seqR w }

def seqIdle : Seq := { uop := 0b0000#4, stage := 0, r := 0 }
def seqEInit : Seq := { uop := 0b0001#4, stage := 0, r := 0 }
def seqBAppend : Seq := { uop := 0b0010#4, stage := 0, r := 0 }
def seqBRetire : Seq := { uop := 0b0011#4, stage := 0, r := 0 }
def seqXLoad : Seq := { uop := 0b0100#4, stage := 0, r := 0 }
def seqXRound (stage : BitVec 2) (r : BitVec 5) : Seq := { uop := 0b0101#4, stage := stage, r := r }
def seqXAdd : Seq := { uop := 0b0110#4, stage := 0, r := 0 }
def seqFLatch : Seq := { uop := 0b0111#4, stage := 0, r := 0 }
def seqFTerm : Seq := { uop := 0b1000#4, stage := 0, r := 0 }
def seqFZero : Seq := { uop := 0b1001#4, stage := 0, r := 0 }
def seqFSpill : Seq := { uop := 0b1010#4, stage := 0, r := 0 }
def seqFLen : Seq := { uop := 0b1011#4, stage := 0, r := 0 }
def seqFOut : Seq := { uop := 0b1100#4, stage := 0, r := 0 }

/-- R78: the successor of the round at (STAGE, R). -/
def roundSuccessor (stage : BitVec 2) (r : BitVec 5) : Seq :=
  if r.toNat < 19 then seqXRound stage (r + 1)
  else if stage.toNat < 3 then seqXRound (stage + 1) 0
  else seqXAdd

/-- R78, R30: where X.ADD returns to. -/
def addSuccessor : XRet → Seq
  | .upd => seqBRetire
  | .spill => seqFSpill
  | .last => seqFOut

/-- R78, R142, R143: the successor of a padding byte, from XRET and the new BUFLEN. For XRET = UPD the table has no
row (R30: "F.ZERO does not occur"): a free value (log entry 6). -/
def padSuccessor (xret : XRet) (buflen free : Nat) : Seq :=
  match xret with
  | .last => if buflen = padPoint then seqFLen else seqFZero
  | .spill => if buflen = blockBytes then seqXLoad else seqFZero
  | .upd => Seq.ofWord (Config.freeSeq free)

/-- How many free values padSuccessor draws. -/
def padDraws : XRet → Nat
  | .last => 0
  | .spill => 0
  | .upd => 1

/-! ### Initialisation (R102) -/

/-- R102: H <- IV, BUFLEN <- 0, NBLK <- 0, the body of the source's `reset()`; no cell of BUF is erased (R53). -/
def State.initMessage (s : State) : State := ((s.setH iv).setBuflen 0).setNblk 0

/-! ### Hardware reset (R180 to R182) -/

/-- The working registers after hardware reset, unspecified (R181). -/
def freeWorking (n : Nat) : Working :=
  { a := Config.freeWord n, b := Config.freeWord (n + 1), c := Config.freeWord (n + 2)
    d := Config.freeWord (n + 3), e := Config.freeWord (n + 4) }

/-- The schedule after hardware reset, unspecified (R181). -/
def freeSchedule (n : Nat) : Vector Word 16 := Vector.ofFn fun j => Config.freeWord (n + 5 + j.val)

/-- The digest register after hardware reset, unspecified (R181). -/
def freeDigest (n : Nat) : Vector Byte 20 := Vector.ofFn fun j => Config.freeByte (n + j.val)

/-- R181: what an edge with `rst = 1` leaves, at whatever SEQ it arrives (R182). BUF, A to E, W, LENBITS, XRET, CMDREG
and DIGEST are unspecified: free values (log entry 7), and no cell of BUF is valid. -/
def State.hardwareReset (s : State) : State :=
  { h := iv
    buf := []
    buflen := 0
    nblk := 0
    work := freeWorking s.free
    w := freeSchedule s.free
    lenbits := Config.freeDWord s.free
    seq := seqIdle
    xret := Config.freeXRet s.free
    cmdreg := Config.freeCmd s.free
    digest := freeDigest s.free
    dvalid := false
    faultFlag := false
    pins := s.pins
    free := s.free + 64 }

end Sys2Proof.Machine
end

