-- ==== Sys2Proof/Machine/Flags.lean ====
section
/-! DEFINITION. The two flags DVALID and FAULT (spec/10_state.md R32, R33) and the one exception, LEN_FAULT
(spec/60_exceptions.md R160 to R163). There are no condition codes, and arithmetic writes no flag (R34). -/

namespace Sys2Proof.Machine

/-- R32: DVALID <- 0, at the acceptance of an UPDATE, FINALIZE or RESET that is not ignored. -/
def State.clearDvalid (s : State) : State := s.setDvalid false

/-- R146: DVALID <- 1, by F.OUT alone. -/
def State.publishDigest (s : State) : State := s.setDvalid true

/-- R160: the byte offered would be byte number 2^61 of the message. -/
def State.lengthExhausted (s : State) : Bool := s.nblk = maxNblk && s.buflen.toNat = 63

/-- TAKING THE EXCEPTION, R161: `raise LEN_FAULT` is FAULT <- 1 beside DVALID <- 0. Nothing is saved ("there is no
saved-pc register, no cause register, no saved mode, no stack frame, no vector and no handler"), SEQ stays at
(IDLE,0,0), and no other register changes; the acceptance has already put the word into CMDREG. -/
def State.raiseLenFault (s : State) : State := s.clearDvalid.setFault true

/-- LEAVING THE FAULT STATE, R163, R101: the RESET command clears both flags at its acceptance. There is no
return-from-exception command and nothing is restored. -/
def State.clearFlags (s : State) : State := s.clearDvalid.setFault false

end Sys2Proof.Machine
end

