-- ==== Sys2Proof/Machine/Operands.lean ====
section
/-! DEFINITION. The operand forms: the command's data byte (spec/30_encoding.md R73, spec/10_state.md R43), the three
implicit addressing modes append, fixed and block (spec/20_memory.md R63), the rotations and the round's operands
(spec/00_scope.md R12, spec/42_block_transform.md R121 to R126), and the acceptance of a command word (R75). -/

namespace Sys2Proof.Machine

/-- R75: the acceptance of a word puts it into CMDREG. -/
def State.accept (op : BitVec 2) (data : Byte) (s : State) : State := s.setCmdreg (cmdWord op data)

/-- R43, R111: B.APPEND's operand, `CMDREG[7:0]`. -/
def State.cmdByte (s : State) : Byte := cmdData s.cmdreg

/-- R63, mode append: the index written is BUFLEN. -/
def State.appendIndex (s : State) : Nat := s.buflen.toNat

/-- R53, R63, mode append: `MemWrite(BUFLEN, 1, b)` and then BUFLEN <- BUFLEN + 1. -/
def State.append (s : State) (b : Byte) : Except Fault State :=
  match s.memWrite s.appendIndex [b] with
  | .ok t => .ok (t.setBuflen (s.buflen + 1))
  | .error e => .error e

/-- R63, mode fixed: the index of the length field. -/
def lengthIndex : Nat := 56

/-- R53, R63, mode fixed: `MemWrite(56, 8, v)` and then BUFLEN <- 64. -/
def State.putLength (s : State) (v : DWord) : Except Fault State :=
  match s.memWrite lengthIndex (be64 v) with
  | .ok t => .ok (t.setBuflen 64)
  | .error e => .error e

/-- R63, mode block, R120: the sixteen words of the block. -/
def State.loadBlock (s : State) : Vector Word 16 := Vector.ofFn fun j => s.memRead4 (4 * j.val)

/-- R120: (A, B, C, D, E) <- (H[0], H[1], H[2], H[3], H[4]). -/
def workOfH (x : HWords) : Working := { a := x.h0, b := x.h1, c := x.h2, d := x.h3, e := x.h4 }

/-- R12: `ROTL_n(x)`, circular left rotation. -/
def rotl (n : Nat) (x : Word) : Word := (x <<< n) ||| (x >>> (32 - n))

/-- The schedule word in slot n mod 16 (R27: "indices modulo 16"). -/
def slot (w : Vector Word 16) (n : Nat) : Word := w[n % 16]'(Nat.mod_lt n (by decide))

/-- The schedule with slot n mod 16 replaced. -/
def setSlot (w : Vector Word 16) (n : Nat) (x : Word) : Vector Word 16 :=
  w.set (n % 16) x (Nat.mod_lt n (by decide))

/-- R121: the schedule step of round t, with j = t mod 16; no word is replaced while t ≤ 15. -/
def scheduleStep (t : Nat) (w : Vector Word 16) : Vector Word 16 :=
  let j := t % 16
  if 16 ≤ t then
    setSlot w j (rotl 1 (slot w (j + 13) ^^^ slot w (j + 8) ^^^ slot w (j + 2) ^^^ slot w j))
  else w

/-- R122: the function of stage 0. -/
def fCh (b c d : Word) : Word := (b &&& (c ^^^ d)) ^^^ d

/-- R123, R125: the function of stages 1 and 3. -/
def fPar (b c d : Word) : Word := b ^^^ c ^^^ d

/-- R124: the function of stage 2. -/
def fMaj (b c d : Word) : Word := (b &&& c) ||| (b &&& d) ||| (c &&& d)

/-- R126, steps 2 and 3: the round's sum and the rotation of the working registers, all from the old values. -/
def roundWork (f k wj : Word) (x : Working) : Working :=
  { a := rotl 5 x.a + f + x.e + wj + k
    b := x.a
    c := rotl 30 x.b
    d := x.c
    e := x.d }

/-- R121: the round index t = 20 * STAGE + R. -/
def roundIndex (stage : BitVec 2) (r : BitVec 5) : Nat := 20 * stage.toNat + r.toNat

/-- R127: H[i] <- H[i] +32 (A..E)[i]. -/
def addWork (x : HWords) (v : Working) : HWords :=
  { h0 := x.h0 + v.a, h1 := x.h1 + v.b, h2 := x.h2 + v.c, h3 := x.h3 + v.d, h4 := x.h4 + v.e }

/-- R141: 512 * NBLK + 8 * BUFLEN as a 64-bit value. -/
def State.messageBits (s : State) : DWord := 512#64 * s.nblk + 8#64 * s.buflen.setWidth 64

/-- R146, R84: the 20 digest bytes, H[0] first, each word most significant byte first. -/
def serialise (x : HWords) : Vector Byte 20 :=
  #v[byte32 x.h0 0, byte32 x.h0 1, byte32 x.h0 2, byte32 x.h0 3,
     byte32 x.h1 0, byte32 x.h1 1, byte32 x.h1 2, byte32 x.h1 3,
     byte32 x.h2 0, byte32 x.h2 1, byte32 x.h2 2, byte32 x.h2 3,
     byte32 x.h3 0, byte32 x.h3 1, byte32 x.h3 2, byte32 x.h3 3,
     byte32 x.h4 0, byte32 x.h4 1, byte32 x.h4 2, byte32 x.h4 3]

end Sys2Proof.Machine
end

