-- ==== Sys2Proof/Machine/Buffer.lean ====
section
/-! DEFINITION. The buffer's micro-operations B.APPEND and B.RETIRE (spec/41_cmd_update.md R111, R112). -/

namespace Sys2Proof.Machine

/-- R111: what follows the append: a full buffer sets XRET <- UPD and goes to X.LOAD, another goes to IDLE. -/
def State.afterAppend (s : State) : State :=
  if s.buflen.toNat = blockBytes then (s.setXret .upd).setSeq seqXLoad else s.setSeq seqIdle

/-- R111: BUF[BUFLEN] <- CMDREG[7:0], BUFLEN <- BUFLEN + 1. -/
def execBAppend (s : State) : Host.Outcome State Fault Refusal :=
  match s.append s.cmdByte with
  | .ok t => .next t.afterAppend
  | .error e => .fault e

/-- R112: NBLK <- NBLK + 1, BUFLEN <- 0, SEQ <- (IDLE,0,0). -/
def execBRetire (s : State) : Host.Outcome State Fault Refusal :=
  .next (((s.setNblk (s.nblk + 1)).setBuflen 0).setSeq seqIdle)

end Sys2Proof.Machine
end

