-- ==== Sys2Proof/Machine/Command.lean ====
section
/-! DEFINITION. The four commands at their acceptance (spec/30_encoding.md R75; spec/40_cmd_reset_nop.md R100, R101;
spec/41_cmd_update.md R110; spec/43_cmd_finalize.md R140). Each puts its word into CMDREG, does the flag effects of
the acceptance and selects the first micro-operation of its trace (R80). An ignored or faulting command leaves SEQ at
(IDLE,0,0). The order of UPDATE's tests is R166's: FAULT, then the length, then the normal path. -/

namespace Sys2Proof.Machine

/-- R100: CMDREG <- the word, and nothing else; DVALID, FAULT and SEQ keep their values. -/
def execNop (data : Byte) (s : State) : Host.Outcome State Fault Refusal :=
  .next (s.accept 0b00#2 data)

/-- R101, R75: DVALID <- 0, FAULT <- 0, then E.INIT. RESET is never ignored. -/
def execReset (data : Byte) (s : State) : Host.Outcome State Fault Refusal :=
  .next ((s.accept 0b11#2 data).clearFlags.setSeq seqEInit)

/-- R110, R75: ignored while FAULT = 1 (R162); LEN_FAULT when the byte would be number 2^61 (R160, R161); otherwise
DVALID <- 0, then B.APPEND. -/
def execUpdate (data : Byte) (s : State) : Host.Outcome State Fault Refusal :=
  if s.faultFlag then .next (s.accept 0b01#2 data)
  else if s.lengthExhausted then .next (s.accept 0b01#2 data).raiseLenFault
  else .next ((s.accept 0b01#2 data).clearDvalid.setSeq seqBAppend)

/-- R140, R75: ignored while FAULT = 1 (R162); otherwise DVALID <- 0, then F.LATCH. -/
def execFinalize (data : Byte) (s : State) : Host.Outcome State Fault Refusal :=
  if s.faultFlag then .next (s.accept 0b10#2 data)
  else .next ((s.accept 0b10#2 data).clearDvalid.setSeq seqFLatch)

end Sys2Proof.Machine
end

