-- ==== Sys2Proof/Machine/Engine.lean ====
section
/-! DEFINITION. The engine's own rows: IDLE (spec/30_encoding.md R75, R78) and E.INIT (spec/40_cmd_reset_nop.md
R102). -/

namespace Sys2Proof.Machine

/-- R78: at IDLE with no command accepted, SEQ is (IDLE,0,0) again and nothing changes. -/
def execIdle (s : State) : Host.Outcome State Fault Refusal :=
  .next (s.setSeq seqIdle)

/-- R102: H <- IV, BUFLEN <- 0, NBLK <- 0, SEQ <- (IDLE,0,0); the flags are not touched. -/
def execEInit (s : State) : Host.Outcome State Fault Refusal :=
  .next (s.initMessage.setSeq seqIdle)

end Sys2Proof.Machine
end

