-- ==== Sys2Proof/Machine/Finalize.lean ====
section
/-! DEFINITION. The micro-operations of FINALIZE: F.LATCH, F.TERM, F.ZERO, F.SPILL, F.LEN, F.OUT
(spec/43_cmd_finalize.md R141 to R146). -/

namespace Sys2Proof.Machine

/-- R141: LENBITS <- 512 * NBLK + 8 * BUFLEN, SEQ <- (F.TERM,0,0). -/
def execFLatch (s : State) : Host.Outcome State Fault Refusal :=
  .next ((s.setLenbits s.messageBits).setSeq seqFTerm)

/-- R142: XRET <- SPILL if the new BUFLEN is past 56, else LAST. -/
def padTarget (buflen : Nat) : XRet := if padPoint < buflen then .spill else .last

/-- R142, R143, R78: SEQ after a padding byte, by XRET and the new BUFLEN. -/
def State.afterPad (s : State) : State :=
  (s.setSeq (padSuccessor s.xret s.buflen.toNat s.free)).setFree (s.free + padDraws s.xret)

/-- R142: BUF[BUFLEN] <- 0x80, BUFLEN <- BUFLEN + 1, XRET by the new BUFLEN, SEQ by R78. -/
def execFTerm (s : State) : Host.Outcome State Fault Refusal :=
  match s.append terminator with
  | .ok t => .next (t.setXret (padTarget t.buflen.toNat)).afterPad
  | .error e => .fault e

/-- R143: BUF[BUFLEN] <- 0x00, BUFLEN <- BUFLEN + 1, SEQ by R78. -/
def execFZero (s : State) : Host.Outcome State Fault Refusal :=
  match s.append fillByte with
  | .ok t => .next t.afterPad
  | .error e => .fault e

/-- R144: BUFLEN <- 0, XRET <- LAST, SEQ <- (F.ZERO,0,0); NBLK is not incremented. -/
def execFSpill (s : State) : Host.Outcome State Fault Refusal :=
  .next (((s.setBuflen 0).setXret .last).setSeq seqFZero)

/-- R145: BUF[56..63] <- be64(LENBITS), BUFLEN <- 64, SEQ <- (X.LOAD,0,0). -/
def execFLen (s : State) : Host.Outcome State Fault Refusal :=
  match s.putLength s.lenbits with
  | .ok t => .next (t.setSeq seqXLoad)
  | .error e => .fault e

/-- R146: DIGEST <- the 20 bytes of H, DVALID <- 1, SEQ <- (E.INIT,0,0). -/
def execFOut (s : State) : Host.Outcome State Fault Refusal :=
  .next ((s.setDigest (serialise s.h)).publishDigest.setSeq seqEInit)

end Sys2Proof.Machine
end

