-- ==== Sys2Proof/Machine/Transform.lean ====
section
/-! DEFINITION. The block transform's micro-operations X.LOAD, the four X.ROUND variants and X.ADD
(spec/42_block_transform.md R120 to R127). -/

namespace Sys2Proof.Machine

/-- R120: W <- the block's sixteen words, (A..E) <- H, SEQ <- (X.ROUND,0,0). A cell that holds no pending byte gives
a free value (log entry 5), and only then the counter of free values moves on. -/
def execXLoad (s : State) : Host.Outcome State Fault Refusal :=
  .next ((((s.setW s.loadBlock).setWork (workOfH s.h)).setSeq (seqXRound 0 0)).setFree
    (if s.blockWritten then s.free else s.free + 64))

/-- R126: the round body common to the four variants, with the variant's f and k. -/
def State.roundBody (stage : BitVec 2) (f : Word → Word → Word → Word) (k : Word) (r : BitVec 5) (s : State) : State :=
  let t := roundIndex stage r
  let w := scheduleStep t s.w
  ((s.setW w).setWork (roundWork (f s.work.b s.work.c s.work.d) k (slot w t) s.work)).setSeq (roundSuccessor stage r)

/-- R77, R79: an X.ROUND runs for R = 0 to 19; R = 20 to 31 is reserved. -/
def runRound (stage : BitVec 2) (f : Word → Word → Word → Word) (k : Word) (r : BitVec 5) (s : State) :
    Host.Outcome State Fault Refusal :=
  if roundLegal r then .next (s.roundBody stage f k r) else .refused (.reservedRound r)

/-- R122: rounds 0 to 19. -/
def execXRoundCh (r : BitVec 5) (s : State) : Host.Outcome State Fault Refusal :=
  runRound 0b00#2 fCh kCh r s

/-- R123: rounds 20 to 39. -/
def execXRoundPar1 (r : BitVec 5) (s : State) : Host.Outcome State Fault Refusal :=
  runRound 0b01#2 fPar kPar1 r s

/-- R124: rounds 40 to 59. -/
def execXRoundMaj (r : BitVec 5) (s : State) : Host.Outcome State Fault Refusal :=
  runRound 0b10#2 fMaj kMaj r s

/-- R125: rounds 60 to 79. -/
def execXRoundPar2 (r : BitVec 5) (s : State) : Host.Outcome State Fault Refusal :=
  runRound 0b11#2 fPar kPar2 r s

/-- R127: H[i] <- H[i] +32 (A..E)[i]; SEQ by XRET. -/
def execXAdd (s : State) : Host.Outcome State Fault Refusal :=
  .next ((s.setH (addWork s.h s.work)).setSeq (addSuccessor s.xret))

end Sys2Proof.Machine
end

