-- ==== Sys2Proof/Machine/Dispatch.lean ====
section
/-! DEFINITION. The meaning of every instruction, one arm per row of spec/opcode_table.json. -/

namespace Sys2Proof.Machine

def exec (i : Instr) (s : State) : Host.Outcome State Fault Refusal :=
  match i with
  | .nop data => Sys2Proof.Machine.execNop data s
  | .update data => Sys2Proof.Machine.execUpdate data s
  | .finalize data => Sys2Proof.Machine.execFinalize data s
  | .reset data => Sys2Proof.Machine.execReset data s
  | .idle => Sys2Proof.Machine.execIdle s
  | .eInit => Sys2Proof.Machine.execEInit s
  | .bAppend => Sys2Proof.Machine.execBAppend s
  | .bRetire => Sys2Proof.Machine.execBRetire s
  | .xLoad => Sys2Proof.Machine.execXLoad s
  | .xRoundCh r => Sys2Proof.Machine.execXRoundCh r s
  | .xRoundPar1 r => Sys2Proof.Machine.execXRoundPar1 r s
  | .xRoundMaj r => Sys2Proof.Machine.execXRoundMaj r s
  | .xRoundPar2 r => Sys2Proof.Machine.execXRoundPar2 r s
  | .xAdd => Sys2Proof.Machine.execXAdd s
  | .fLatch => Sys2Proof.Machine.execFLatch s
  | .fTerm => Sys2Proof.Machine.execFTerm s
  | .fZero => Sys2Proof.Machine.execFZero s
  | .fSpill => Sys2Proof.Machine.execFSpill s
  | .fLen => Sys2Proof.Machine.execFLen s
  | .fOut => Sys2Proof.Machine.execFOut s

end Sys2Proof.Machine
end

