-- ==== Sys2Proof/Machine/Fetch.lean ====
section
/-! DEFINITION. What a step runs. The engine fetches nothing from a memory (spec/20_memory.md R60): its instruction is
either the command word the host presents while the engine is ready (spec/30_encoding.md R75) or the micro-operation
that SEQ names (R77). `rst = 1` comes before both (spec/60_exceptions.md R166). -/

namespace Sys2Proof.Machine

/-- R71: what the host drives now; past the end of the list it drives nothing. -/
def State.sample (s : State) : Pins :=
  match s.pins with
  | [] => Pins.quiet
  | p :: _ => p

/-- The pins after this step has sampled them: a word that was not accepted is not remembered (R184). -/
def State.dropSample (s : State) : State := s.setPins s.pins.tail

/-- R29: no command is in progress. -/
def State.atBoundary (s : State) : Bool := s.seq = seqIdle

/-- R71, R34: `cmd_ready = 1` if and only if `SEQ.UOP = IDLE` and `rst = 0`. -/
def State.cmdReady (s : State) : Bool := s.seq.uop = 0b0000#4 && !s.sample.rst

/-- What one step does. -/
inductive Fetched where
  /-- A hardware reset. -/
  | hardwareReset
  /-- The instruction, a command accepted or a micro-operation. -/
  | instr (i : Instr)
  /-- SEQ is reserved (R79). -/
  | reserved (why : DecodeError)
  deriving DecidableEq, Repr

/-- R166, R75, R77: reset first; then, where SEQ is IDLE and a word is presented, that command; else SEQ's own row. -/
def State.fetch (s : State) : Fetched :=
  if s.sample.rst then .hardwareReset
  else
    match decodeSeqFields s.seq.uop s.seq.stage s.seq.r with
    | .error e => .reserved e
    | .ok i =>
      if s.atBoundary && s.sample.cmdValid then .instr (decodeCmd s.sample.cmd) else .instr i

/-- The host presents the command word at the next step, to an engine that is at a command boundary. -/
def State.placeCommand (c : BitVec 10) (s : State) : State :=
  (s.setSeq seqIdle).setPins (Pins.command c :: s.pins)

/-- The sequencer stands at the word `w`, and the host drives nothing at the next step. -/
def State.placeSeq (w : BitVec 11) (s : State) : State :=
  (s.setSeq (Seq.ofWord w)).setPins (Pins.quiet :: s.pins)

/-- The table word placed where the next step takes its instruction from (log entry 4). -/
def State.placeTableWord (s : State) (nbits w : Nat) : State :=
  match tableCodeWord nbits w with
  | none => s
  | some (.cmd c) => s.placeCommand c
  | some (.seq q) => s.placeSeq q

end Sys2Proof.Machine
end

