-- ==== Sys2Proof/Machine/Step.lean ====
section
/-! DEFINITION. One step: one micro-operation, one accepted command, one idle step, or one hardware reset. -/

namespace Sys2Proof.Machine

/-- The step samples the pins once; the instruction runs on the state whose pins have moved on. -/
def step (s : State) : Host.Outcome State Fault Refusal :=
  match s.fetch with
  | .hardwareReset => .next s.dropSample.hardwareReset
  | .instr i => exec i s.dropSample
  | .reserved why => .refused (.reservedSeq why)

/-- s with the table word placed so that the next step runs it. -/
def State.withFetchWord (s : State) (nbits w : Nat) : State := s.placeTableWord nbits w

end Sys2Proof.Machine
end

