-- ==== Sys2Proof/Machine/Instances.lean ====
section
/-! DEFINITION. Several engines side by side (spec/60_exceptions.md R172, spec/00_scope.md R9). -/

namespace Sys2Proof.Machine

/-- R172: n disjoint copies of the engine's state, each with its own ports: its inputs are its own field pins, its
outputs those of its own state. An engine has no number that it could read. -/
abbrev Engines (n : Nat) : Type := Vector State n

/-- R172: all n engines start in the reset state. -/
def resetEngines (n : Nat) : Engines n := Vector.replicate n State.reset

/-- R9, R172: the N_INSTANCES engines as they start. -/
def resetInstances : Engines Config.nInstances := resetEngines Config.nInstances

/-- R172, U14: a step of the product of n engines is a step of one of them, and the others stay as they are; where its
own step stops, so does this one (log entry 15). -/
def stepInstance {n : Nat} (k : Fin n) (engines : Engines n) : Host.Outcome (Engines n) Fault Refusal :=
  match step engines[k] with
  | .next t => .next (engines.set k t)
  | .fault e => .fault e
  | .refused r => .refused r

end Sys2Proof.Machine
end

