-- ==== Sys2Proof/Machine/Algorithm.lean ====
section
/-! DEFINITION. The functions the spec writes out beside the micro-operations: `Transform(h, blk)` (spec/42_block_transform.md
R131) and its expanded form (R132), `Pad(m)` (spec/43_cmd_finalize.md R147) and `SHA1(m)` (R148). No meaning calls
them: claims compare the machine with them. -/

namespace Sys2Proof.Machine

/-- R82: word j of a block, big-endian. A block here is a list of 64 bytes; a byte that a shorter list lacks counts
as 0x00 (DESIGN CHOICE, log entry 20). -/
def blockWord (blk : List Byte) (j : Nat) : Word :=
  wordBE (blk.getD (4 * j) 0) (blk.getD (4 * j + 1) 0) (blk.getD (4 * j + 2) 0) (blk.getD (4 * j + 3) 0)

/-- R131: the function f of stage s = t div 20. -/
def stageF (s : Nat) (b c d : Word) : Word :=
  match s with
  | 0 => (b &&& (c ^^^ d)) ^^^ d
  | 1 => b ^^^ c ^^^ d
  | 2 => (b &&& c) ||| (b &&& d) ||| (c &&& d)
  | _ => b ^^^ c ^^^ d

/-- R131, R81: the constant k of stage s. -/
def stageK (s : Nat) : Word :=
  match s with
  | 0 => 0x5A827999#32
  | 1 => 0x6ED9EBA1#32
  | 2 => 0x8F1BBCDC#32
  | _ => 0xCA62C1D6#32

/-- R131: one pass of the loop, with the word the round uses given. -/
def mixRound (t : Nat) (wt : Word) (v : Working) : Working :=
  { a := rotl 5 v.a + stageF (t / 20) v.b v.c v.d + v.e + wt + stageK (t / 20)
    b := v.a
    c := rotl 30 v.b
    d := v.c
    e := v.d }

/-- R131: the loop body on the window w[0..15] and (a, b, c, d, e). -/
def transformRound (x : Vector Word 16 × Working) (t : Nat) : Vector Word 16 × Working :=
  let j := t % 16
  let w :=
    if 16 ≤ t then
      setSlot x.1 j (rotl 1 (slot x.1 ((j + 13) % 16) ^^^ slot x.1 ((j + 8) % 16) ^^^ slot x.1 ((j + 2) % 16) ^^^ slot x.1 j))
    else x.1
  (w, mixRound t (slot w j) x.2)

/-- R131: `Transform(h, blk)`, for blk of 64 bytes; any other length is log entry 20. -/
def transform (h : HWords) (blk : List Byte) : HWords :=
  let start : Vector Word 16 × Working := (Vector.ofFn fun j => blockWord blk j.val, workOfH h)
  addWork h ((List.range 80).foldl transformRound start).2

/-- R132: the schedule of n words, extended one word at a time: WW[t] from WW[t−3], WW[t−8], WW[t−14], WW[t−16]. -/
def expandSchedule : Nat → List Word → List Word
  | 0, ww => ww
  | n + 1, ww =>
    let t := ww.length
    expandSchedule n
      (ww ++ [rotl 1 (ww.getD (t - 3) 0 ^^^ ww.getD (t - 8) 0 ^^^ ww.getD (t - 14) 0 ^^^ ww.getD (t - 16) 0)])

/-- R132: the 80-word array WW[0..79] of a block. -/
def scheduleWords (blk : List Byte) : List Word :=
  expandSchedule 64 ((List.range 16).map (blockWord blk))

/-- R132: the transform with the expanded schedule, round t using WW[t]. -/
def transformExpanded (h : HWords) (blk : List Byte) : HWords :=
  addWork h ((List.range 80).foldl (fun v t => mixRound t ((scheduleWords blk).getD t 0) v) (workOfH h))

/-- R147: `Pad(m)`: m, 0x80, z zero bytes with z = (55 − L) mod 64, and the bit length. R147 defines
it for L < 2^61 alone, and beyond that the source leaves it unspecified (U2): that the length field is 8 * L modulo 2^64
there is a DESIGN CHOICE, log entry 20. -/
def pad (m : List Byte) : List Byte :=
  m ++ [0x80#8] ++ List.replicate ((119 - m.length % 64) % 64) 0x00#8 ++ be64 (BitVec.ofNat 64 (8 * m.length))

/-- The first n 64-byte blocks of a byte sequence (R148: `P[0], ..., P[n−1]`). -/
def blocks (n : Nat) (l : List Byte) : List (List Byte) :=
  (List.range n).map fun i => (l.drop (64 * i)).take 64

/-- R148, R41: h(n), the digest words after the first n blocks of l. -/
def chain (n : Nat) (l : List Byte) : HWords := (blocks n l).foldl transform iv

/-- R148: `SHA1(m)`, for m shorter than 2^61 bytes; beyond that it is what `pad` makes of it (DESIGN CHOICE, log entry
20). -/
def sha1 (m : List Byte) : Vector Byte 20 := serialise (chain ((pad m).length / 64) (pad m))

end Sys2Proof.Machine
end

