-- ==== Sys2Proof/Machine/CommandLevel.lean ====
section
/-! DEFINITION. The command level of the spec (spec/00_scope.md R16, item 1): each accepted command is one atomic
transition of the architectural state (H, BUF[0..BUFLEN−1], BUFLEN, NBLK, DIGEST, DVALID, FAULT) of spec/10_state.md
R20. Rules R100, R101, R110, R140. The machine's step runs the micro-operation level (R16, item 2); claims say that
the two agree at command boundaries. On states past the bounds of R24 and R25 the transitions are what their pseudocode
makes of them (DESIGN CHOICE, log entry 20). -/

namespace Sys2Proof.Machine

/-- The architectural state: the pending bytes are BUF[0..BUFLEN−1], oldest first (R22), and the digest is there
exactly while DVALID = 1 (R31). -/
structure Arch where
  h : HWords
  pending : List Byte
  nblk : DWord
  digest : Option (Vector Byte 20)
  fault : Bool
  deriving DecidableEq, Repr

/-- R18, R103: the initial lifecycle point. -/
def Arch.initial : Arch := { h := iv, pending := [], nblk := 0, digest := none, fault := false }

/-- The architectural state of a machine state at a command boundary. -/
def State.arch (s : State) : Arch :=
  { h := s.h
    pending := (List.range s.buflen.toNat).map s.loadByte
    nblk := s.nblk
    digest := if s.dvalid then some s.digest else none
    fault := s.faultFlag }

/-- R110, the command-level pseudocode of UPDATE x. -/
def Arch.update (x : Byte) (a : Arch) : Arch :=
  if a.fault then a
  else if a.nblk = maxNblk ∧ a.pending.length = 63 then { a with digest := none, fault := true }
  else
    let p := a.pending ++ [x]
    if p.length = 64 then { a with h := transform a.h p, pending := [], nblk := a.nblk + 1, digest := none }
    else { a with pending := p, digest := none }

/-- R140, step 4: the terminator has left no room for the length, and the spill block is transformed. -/
def padSpill (h : HWords) (p : List Byte) : HWords × List Byte :=
  if 56 < p.length then (transform h (p ++ List.replicate (64 - p.length) 0x00#8), []) else (h, p)

/-- R140, steps 5 and 6: the last block. -/
def lastBlock (p : List Byte) (lenbits : DWord) : List Byte :=
  p ++ List.replicate (56 - p.length) 0x00#8 ++ be64 lenbits

/-- R140, the command-level pseudocode of FINALIZE. -/
def Arch.finalize (a : Arch) : Arch :=
  if a.fault then a
  else
    let lenbits : DWord := 512#64 * a.nblk + 8#64 * BitVec.ofNat 64 a.pending.length
    let x := padSpill a.h (a.pending ++ [0x80#8])
    { h := iv, pending := [], nblk := 0, fault := false,
      digest := some (serialise (transform x.1 (lastBlock x.2 lenbits))) }

/-- R101, the command-level pseudocode of RESET. -/
def Arch.reset (_ : Arch) : Arch := Arch.initial

/-- R16: one accepted command word as one transition. -/
def Arch.accept (c : BitVec 10) (a : Arch) : Arch :=
  match (cmdOp c).toNat with
  | 0 => a
  | 1 => a.update (cmdData c)
  | 2 => a.finalize
  | _ => a.reset

/-- R40: `BUFLEN = 0 and NBLK = 0`. -/
def Arch.idle (a : Arch) : Bool := a.pending.isEmpty && a.nblk = 0

/-- R40: Accumulating is not Idle. -/
def Arch.accumulating (a : Arch) : Bool := !a.idle

end Sys2Proof.Machine
end

