-- ==== Sys2Proof/Machine/Ports.lean ====
section
/-! DEFINITION. The output ports (spec/30_encoding.md R71), what a run of a program is and what it shows
(spec/70_reset_and_hazards.md R184, R187, R188, R196). -/

namespace Sys2Proof.Machine

/-- R71: DIGEST as the 160-bit number of the `digest` port, DIGEST[0] in the top eight bits. -/
def packDigest (d : Vector Byte 20) : BitVec 160 :=
  d.toList.foldl (fun acc b => (acc <<< 8) ||| b.setWidth 160) 0

/-- R71: the `digest_valid` port. -/
def State.digestValidPort (s : State) : Bool := s.dvalid

/-- R71: the `len_fault` port. -/
def State.lenFaultPort (s : State) : Bool := s.faultFlag

/-- R71, R31, R188: the `digest` port. While DVALID = 0 its value is unspecified, and the model refuses the read
(U5: "a stricter model may `refuse` the read"; log entry 8). -/
def State.digestPort (s : State) : Option (BitVec 160) :=
  if s.dvalid then some (packDigest s.digest) else none

/-- R196: what the host sees at a command boundary. -/
structure Observation where
  digestValid : Bool
  digest : Option (BitVec 160)
  lenFault : Bool
  deriving DecidableEq, Repr

def State.observe (s : State) : Observation :=
  { digestValid := s.digestValidPort, digest := s.digestPort, lenFault := s.lenFaultPort }

/-! ### Runs (R196)

In a run the host's `rst` is what the pins list drives, and its `cmd_valid` and `cmd` are the program's next word, held
until it is accepted (R184). -/

/-- How a run stands after the engine has been left to go on. -/
inductive Progress where
  /-- `cmd_ready = 1`: the engine takes the next word. -/
  | ready (s : State)
  /-- A hardware reset has ended the run (R196, R182); s is the state of R181, in which a new run starts. -/
  | reset (s : State)
  /-- Neither within the fuel; from a state of Inv it does not occur (R191). -/
  | busy (s : State)
  deriving DecidableEq, Repr

/-- R196: steps until `cmd_ready = 1`, or until an edge with `rst = 1`, at most `fuel` times. IDLE with `rst = 1` is not
ready (R71, R166): that edge is a hardware reset. -/
def toBoundary : Nat → State → Host.Outcome Progress Fault Refusal
  | 0, s => .next (if s.cmdReady then .ready s else .busy s)
  | n + 1, s =>
    if s.cmdReady then .next (.ready s)
    else
      match step s with
      | .next t => if s.sample.rst then .next (.reset t) else toBoundary n t
      | .fault e => .fault e
      | .refused r => .refused r

/-- Fuel for every trace of R80 and the edge after it. -/
def runFuel : Nat := maxTrace + 1

/-- R184: the host presents the word `c` at this edge, and `rst` is as the pins list drives it. -/
def State.present (c : BitVec 10) (s : State) : State :=
  s.setPins ({ rst := s.sample.rst, cmdValid := true, cmd := c } :: s.pins.tail)

/-- R184, R196: the word is held until it is accepted, and its command runs to the next edge with `cmd_ready = 1`, if no
hardware reset ends the run before that. -/
def runWord (c : BitVec 10) (s : State) : Host.Outcome Progress Fault Refusal :=
  match toBoundary runFuel s with
  | .next (.ready u) =>
    match step (u.present c) with
    | .next t => toBoundary runFuel t
    | .fault e => .fault e
    | .refused r => .refused r
  | .next (.reset t) => .next (.reset t)
  | .next (.busy t) => .next (.busy t)
  | .fault e => .fault e
  | .refused r => .refused r

/-- R196: where a run stands at its end, and what it has shown. -/
structure Run where
  /-- The last boundary, or the state of R181 after the hardware reset that ended the run. -/
  final : Progress
  /-- One observation per accepted word whose command reached its boundary within the run; a word whose command a
  hardware reset aborted has none (DESIGN CHOICE, log entry 19). -/
  shown : List Observation
  deriving DecidableEq, Repr

/-- R196: a run presents the words of a program in order, and shows one observation per accepted word. A program of no
words is over at once; after a hardware reset no further word is presented. -/
def runWords : List (BitVec 10) → State → Host.Outcome Run Fault Refusal
  | [], s => .next { final := .ready s, shown := [] }
  | c :: cs, s =>
    match runWord c s with
    | .next (.ready t) =>
      match runWords cs t with
      | .next r => .next { r with shown := t.observe :: r.shown }
      | .fault e => .fault e
      | .refused r => .refused r
    | .next p => .next { final := p, shown := [] }
    | .fault e => .fault e
    | .refused r => .refused r

end Sys2Proof.Machine
end

