-- ==== Sys2Proof/Machine/Script.lean ====
section
/-! DEFINITION. Command scripts (spec/30_encoding.md R85 to R87) and the printing of a digest (spec/00_scope.md R15). -/

namespace Sys2Proof.Machine

/-- R85, R86: one line of a script, a command or a pseudo-instruction. -/
inductive ScriptLine where
  /-- `NOP` -/
  | nop
  /-- `UPDATE byte` -/
  | update (b : Byte)
  /-- `FINALIZE`, also the pseudo `finalize()` -/
  | finalize
  /-- `RESET`, also the pseudo `reset()` -/
  | reset
  /-- `UPDATE.X h1h2...`, also the pseudo `update(data)` -/
  | updateX (data : List Byte)
  /-- `UPDATE.S "c1c2...cn"`, the characters' ASCII codes -/
  | updateS (text : List Char)
  /-- `UPDATE.N n, byte` -/
  | updateN (n : Nat) (b : Byte)
  /-- `HASH.S "..."` -/
  | hashS (text : List Char)
  deriving DecidableEq, Repr

/-- R72: the words the assembler emits (R85: `data = 0x00` for NOP, FINALIZE and RESET). -/
def nopWord : BitVec 10 := cmdWord 0b00#2 0x00#8
def updateWord (b : Byte) : BitVec 10 := cmdWord 0b01#2 b
def finalizeWord : BitVec 10 := cmdWord 0b10#2 0x00#8
def resetWord : BitVec 10 := cmdWord 0b11#2 0x00#8

/-- R85: "A character literal stands for its ASCII code". The parser takes printable ASCII alone; another character
counts as its code modulo 256 (DESIGN CHOICE, log entry 16). -/
def charByte (c : Char) : Byte := BitVec.ofNat 8 c.toNat

/-- R86: the pseudo `update(data)`: one UPDATE per byte, in order; nothing for the empty sequence. -/
def updateWords (data : List Byte) : List (BitVec 10) := data.map updateWord

/-- R86: the expansions. -/
def ScriptLine.words : ScriptLine → List (BitVec 10)
  | .nop => [nopWord]
  | .update b => [updateWord b]
  | .finalize => [finalizeWord]
  | .reset => [resetWord]
  | .updateX data => updateWords data
  | .updateS text => updateWords (text.map charByte)
  | .updateN n b => updateWords (List.replicate n b)
  | .hashS text => [resetWord] ++ updateWords (text.map charByte) ++ [finalizeWord]

/-- R87: the program image of a script is the list of its command words in order. -/
def assemble (script : List ScriptLine) : List (BitVec 10) := script.flatMap ScriptLine.words

/-! ### The line syntax of R85

A line is `[ command | pseudo ] [ ";" comment ]`; blanks separate the parts. Characters are compared by their codes. -/

/-- A space or a tab. -/
def isBlank (c : Char) : Bool := c.toNat = 32 || c.toNat = 9

/-- A double quote, an apostrophe, a semicolon, a comma. -/
def isQuote (c : Char) : Bool := c.toNat = 34
def isTick (c : Char) : Bool := c.toNat = 39
def isSemicolon (c : Char) : Bool := c.toNat = 59
def isComma (c : Char) : Bool := c.toNat = 44

/-- R85: a printable ASCII character. -/
def isPrintable (c : Char) : Bool := 32 ≤ c.toNat && c.toNat ≤ 126

def skipBlanks (cs : List Char) : List Char := cs.dropWhile isBlank

/-- The value of a hexadecimal digit. -/
def hexValue (c : Char) : Option Nat :=
  let n := c.toNat
  if 48 ≤ n && n ≤ 57 then some (n - 48)
  else if 65 ≤ n && n ≤ 70 then some (n - 55)
  else if 97 ≤ n && n ≤ 102 then some (n - 87)
  else none

/-- A decimal number, most significant digit first. -/
def decimalValue (cs : List Char) : Nat := cs.foldl (fun n c => 10 * n + (c.toNat - 48)) 0

/-- A decimal number at the head of the line, at least one digit. -/
def readDecimal (cs : List Char) : Option (Nat × List Char) :=
  match cs.takeWhile Char.isDigit with
  | [] => none
  | ds => some (decimalValue ds, cs.dropWhile Char.isDigit)

/-- R85: `byte ::= "0x" hex hex | decimal 0..255 | "'" printable-ASCII-character "'"`. -/
def readByte (cs : List Char) : Option (Byte × List Char) :=
  let decimal : Option (Byte × List Char) :=
    match readDecimal cs with
    | some (n, rest) => if n ≤ 255 then some (BitVec.ofNat 8 n, rest) else none
    | none => none
  match cs with
  | a :: b :: c :: rest =>
    if isTick a && isTick c && isPrintable b then some (charByte b, rest)
    else if a = '0' && b = 'x' then
      match rest with
      | d :: rest' =>
        match hexValue c, hexValue d with
        | some h, some l => some (BitVec.ofNat 8 (16 * h + l), rest')
        | _, _ => none
      | [] => none
    else decimal
  | _ => decimal

/-- R86: an even number of hexadecimal digits, a byte per pair. -/
def readHexPairs : List Char → Option (List Byte × List Char)
  | a :: b :: rest =>
    match hexValue a, hexValue b with
    | some h, some l =>
      match readHexPairs rest with
      | some (bs, tail) => some (BitVec.ofNat 8 (16 * h + l) :: bs, tail)
      | none => none
    | none, _ => some ([], a :: b :: rest)
    | some _, none => none
  | [a] => if (hexValue a).isSome then none else some ([], [a])
  | [] => some ([], [])

/-- R86: the characters between two double quotes, each printable. -/
def readText (cs : List Char) : Option (List Char × List Char) :=
  match cs with
  | q :: rest =>
    if isQuote q then
      match rest.dropWhile fun c => !isQuote c with
      | _ :: tail =>
        let text := rest.takeWhile fun c => !isQuote c
        if text.all isPrintable then some (text, tail) else none
      | [] => none
    else none
  | [] => none

/-- The end of a line: blanks, then nothing or a comment. -/
def endsLine (cs : List Char) : Bool :=
  match skipBlanks cs with
  | [] => true
  | c :: _ => isSemicolon c

/-- The line if nothing but a comment follows. -/
def closeLine (x : ScriptLine) (rest : List Char) : Option (List ScriptLine) :=
  if endsLine rest then some [x] else none

/-- R86: the count of `UPDATE.N n, byte`, up to and with its comma. DESIGN CHOICE, log entry 16: the spec gives n no
numeral form, and the parser takes a decimal number; it is silent on blanks, and the parser takes them before the comma
as after it. -/
def readCount (cs : List Char) : Option (Nat × List Char) :=
  match readDecimal cs with
  | some (n, rest) =>
    match skipBlanks rest with
    | c :: tail => if isComma c then some (n, tail) else none
    | [] => none
  | none => none

/-- The operand of the mnemonics that have one (R85, R86); the blanks it takes between the parts of a line are the model's
choice (DESIGN CHOICE, log entry 16). -/
def parseOperand (mnemonic : List Char) (cs : List Char) : Option (List ScriptLine) :=
  if mnemonic = "UPDATE".toList then
    match readByte cs with
    | some (b, rest) => closeLine (.update b) rest
    | none => none
  else if mnemonic = "UPDATE.S".toList then
    match readText cs with
    | some (text, rest) => closeLine (.updateS text) rest
    | none => none
  else if mnemonic = "UPDATE.X".toList then
    match readHexPairs cs with
    | some (bs, rest) => closeLine (.updateX bs) rest
    | none => none
  else if mnemonic = "UPDATE.N".toList then
    match readCount cs with
    | some (n, rest) =>
      match readByte (skipBlanks rest) with
      | some (b, tail) => closeLine (.updateN n b) tail
      | none => none
    | none => none
  else if mnemonic = "HASH.S".toList then
    match readText cs with
    | some (text, rest) => closeLine (.hashS text) rest
    | none => none
  else none

/-- R85: one line of a script; the empty list for a line that holds no command. -/
def parseLine (line : List Char) : Option (List ScriptLine) :=
  let cs := skipBlanks line
  if endsLine cs then some []
  else
    let isEnd := fun (c : Char) => isBlank c || isSemicolon c
    let mnemonic := cs.takeWhile fun c => !isEnd c
    let rest := cs.dropWhile fun c => !isEnd c
    if mnemonic = "NOP".toList then closeLine .nop rest
    else if mnemonic = "FINALIZE".toList || mnemonic = "finalize()".toList then closeLine .finalize rest
    else if mnemonic = "RESET".toList || mnemonic = "reset()".toList then closeLine .reset rest
    else parseOperand mnemonic (skipBlanks rest)

/-- R85: a script, one command per line. -/
def parseScript : List (List Char) → Option (List ScriptLine)
  | [] => some []
  | line :: lines =>
    match parseLine line, parseScript lines with
    | some x, some xs => some (x ++ xs)
    | _, _ => none

/-! ### Printing -/

/-- One lowercase hexadecimal digit. -/
def hexDigit (n : Nat) : Char := if n < 10 then Char.ofNat (48 + n) else Char.ofNat (87 + n)

/-- R15: two lowercase hexadecimal digits per byte, DIGEST[0] first, no separators. -/
def printDigest (d : Vector Byte 20) : List Char :=
  d.toList.flatMap fun b => [hexDigit (b.toNat / 16), hexDigit (b.toNat % 16)]

end Sys2Proof.Machine
end

