-- ==== Sys2Proof/Safety.lean ====
section
/-! DEFINITION. The terms in which claims about the machine are stated: which fields an instruction may write
(spec/10_state.md R37), where it stores in BUF, and the invariant of the states a run can reach (R25, R39, and the
preconditions that the sequencer guarantees in R111 to R146). -/

namespace Sys2Proof.Machine

/-! ### Frames -/

/-- The fields of State, one name each. -/
inductive Field where
  | h
  | buf
  | buflen
  | nblk
  | work
  | w
  | lenbits
  | seq
  | xret
  | cmdreg
  | digest
  | dvalid
  | faultFlag
  | pins
  | free
  deriving DecidableEq, Repr

/-- The field has the same value in both states. -/
def Field.same : Field → State → State → Prop
  | .h, s, t => t.h = s.h
  | .buf, s, t => t.buf = s.buf
  | .buflen, s, t => t.buflen = s.buflen
  | .nblk, s, t => t.nblk = s.nblk
  | .work, s, t => t.work = s.work
  | .w, s, t => t.w = s.w
  | .lenbits, s, t => t.lenbits = s.lenbits
  | .seq, s, t => t.seq = s.seq
  | .xret, s, t => t.xret = s.xret
  | .cmdreg, s, t => t.cmdreg = s.cmdreg
  | .digest, s, t => t.digest = s.digest
  | .dvalid, s, t => t.dvalid = s.dvalid
  | .faultFlag, s, t => t.faultFlag = s.faultFlag
  | .pins, s, t => t.pins = s.pins
  | .free, s, t => t.free = s.free

/-- Every field outside the list has kept its value. -/
def OnlyWrites (fields : List Field) (s t : State) : Prop :=
  ∀ f : Field, f ∉ fields → f.same s t

/-- R37's columns of writers, with CMDREG (R43) and SEQ, and the model's own counter where a free value can be
drawn. -/
def instrWrites : Instr → List Field
  | .nop _ => [.cmdreg]
  | .update _ => [.cmdreg, .dvalid, .faultFlag, .seq]
  | .finalize _ => [.cmdreg, .dvalid, .seq]
  | .reset _ => [.cmdreg, .dvalid, .faultFlag, .seq]
  | .idle => [.seq]
  | .eInit => [.h, .buflen, .nblk, .seq]
  | .bAppend => [.buf, .buflen, .xret, .seq]
  | .bRetire => [.buflen, .nblk, .seq]
  | .xLoad => [.work, .w, .seq, .free]
  | .xRoundCh _ => [.work, .w, .seq]
  | .xRoundPar1 _ => [.work, .w, .seq]
  | .xRoundMaj _ => [.work, .w, .seq]
  | .xRoundPar2 _ => [.work, .w, .seq]
  | .xAdd => [.h, .seq]
  | .fLatch => [.lenbits, .seq]
  | .fTerm => [.buf, .buflen, .xret, .seq]
  | .fZero => [.buf, .buflen, .seq, .free]
  | .fSpill => [.buflen, .xret, .seq]
  | .fLen => [.buf, .buflen, .seq]
  | .fOut => [.digest, .dvalid, .seq]

/-- The bytes an instruction stores in BUF and the index of the first (R53, R63); none for an instruction that
stores nothing. -/
def instrStores (i : Instr) (s : State) : Option (Nat × List Byte) :=
  match i with
  | .bAppend => some (s.appendIndex, [s.cmdByte])
  | .fTerm => some (s.appendIndex, [terminator])
  | .fZero => some (s.appendIndex, [fillByte])
  | .fLen => some (lengthIndex, be64 s.lenbits)
  | .nop _ => none
  | .update _ => none
  | .finalize _ => none
  | .reset _ => none
  | .idle => none
  | .eInit => none
  | .bRetire => none
  | .xLoad => none
  | .xRoundCh _ => none
  | .xRoundPar1 _ => none
  | .xRoundMaj _ => none
  | .xRoundPar2 _ => none
  | .xAdd => none
  | .fLatch => none
  | .fSpill => none
  | .fOut => none

/-! ### The invariant of reachable states -/

/-- The host never asserts `rst` in what it drives. -/
def State.noReset (s : State) : Prop := ∀ p ∈ s.pins, p.rst = false

/-- What holds where SEQ names the micro-operation `i`: the precondition its rule says the sequencer guarantees, with
what later micro-operations of the same trace need. -/
def PositionOk (i : Instr) (s : State) : Prop :=
  match i with
  | .idle => s.buflen.toNat ≤ 63 ∧ (s.nblk = 0 → s.h = iv)
  | .eInit => True
  | .bAppend => s.buflen.toNat ≤ 63 ∧ (s.nblk = 0 → s.h = iv) ∧ s.lengthExhausted = false
  | .bRetire => s.buflen.toNat = 64 ∧ s.xret = .upd ∧ s.nblk.toNat < maxNblk.toNat
  | .xLoad => s.buflen.toNat = 64 ∧ (s.xret = .upd → s.nblk.toNat < maxNblk.toNat)
  | .xRoundCh _ => s.buflen.toNat = 64 ∧ (s.xret = .upd → s.nblk.toNat < maxNblk.toNat)
  | .xRoundPar1 _ => s.buflen.toNat = 64 ∧ (s.xret = .upd → s.nblk.toNat < maxNblk.toNat)
  | .xRoundMaj _ => s.buflen.toNat = 64 ∧ (s.xret = .upd → s.nblk.toNat < maxNblk.toNat)
  | .xRoundPar2 _ => s.buflen.toNat = 64 ∧ (s.xret = .upd → s.nblk.toNat < maxNblk.toNat)
  | .xAdd => s.buflen.toNat = 64 ∧ (s.xret = .upd → s.nblk.toNat < maxNblk.toNat)
  | .fLatch => s.buflen.toNat ≤ 63
  | .fTerm => s.buflen.toNat ≤ 63
  | .fZero =>
    match s.xret with
    | .upd => False
    | .spill => 57 ≤ s.buflen.toNat ∧ s.buflen.toNat ≤ 63
    | .last => s.buflen.toNat ≤ 55
  | .fSpill => s.buflen.toNat = 64 ∧ s.xret = .spill
  | .fLen => s.buflen.toNat = 56 ∧ s.xret = .last
  | .fOut => s.buflen.toNat = 64 ∧ s.xret = .last
  | .nop _ => False
  | .update _ => False
  | .finalize _ => False
  | .reset _ => False

/-- The invariant that every step keeps. -/
structure Inv (s : State) : Prop where
  /-- BUF is in its canonical form. -/
  canonical : Memory.wf s.buf = true
  /-- R39: every cell below BUFLEN has been written. -/
  written : ∀ k, k < s.buflen.toNat → (s.cell k).isSome = true
  /-- R23: BUFLEN is 0 to 64. -/
  buflenBound : s.buflen.toNat ≤ 64
  /-- R25 item 2. -/
  nblkBound : s.nblk.toNat ≤ maxNblk.toNat
  /-- R161, R162: a faulted engine stands at a command boundary with the message it refused to lengthen. -/
  faulted : s.faultFlag = true →
    s.seq = seqIdle ∧ s.dvalid = false ∧ s.nblk = maxNblk ∧ s.buflen.toNat = 63
  /-- R25 item 5, and the step between F.OUT and E.INIT. -/
  published : s.dvalid = true →
    s.seq = seqEInit ∨ (s.seq = seqIdle ∧ s.buflen = 0 ∧ s.nblk = 0 ∧ s.h = iv)
  /-- SEQ is no reserved word, and its row's precondition holds. -/
  position : ∃ i, decodeSeqFields s.seq.uop s.seq.stage s.seq.r = .ok i ∧ PositionOk i s

/-- The state is at a command boundary, satisfies the invariant, and the host drives nothing. -/
structure Boundary (s : State) : Prop where
  inv : Inv s
  idle : s.seq = seqIdle
  quiet : s.pins = []

/-- R25, items 1, 2, 3 and 5 and the bound of item 4. -/
structure BoundaryFacts (s : State) : Prop where
  buflen : s.buflen.toNat ≤ 63
  nblk : s.nblk.toNat ≤ 2 ^ 55 - 1
  untouched : s.nblk = 0 → s.h = iv
  bits : 512 * s.nblk.toNat + 8 * s.buflen.toNat < 2 ^ 64
  published : s.dvalid = true → s.faultFlag = false ∧ s.buflen = 0 ∧ s.nblk = 0 ∧ s.h = iv

/-- R41: the message m is what the architectural state has absorbed. -/
structure Absorbed (m : List Byte) (a : Arch) : Prop where
  length : m.length = 64 * a.nblk.toNat + a.pending.length
  pending : a.pending = m.drop (64 * a.nblk.toNat)
  digest : a.h = chain a.nblk.toNat m

/-- R121, in the spec's own words: the word W[t mod 16] that round t uses. -/
def roundWord (w : Vector Word 16) (t : Nat) : Word :=
  if 16 ≤ t then
    (slot w (t % 16 + 13) ^^^ slot w (t % 16 + 8) ^^^ slot w (t % 16 + 2) ^^^ slot w (t % 16)).rotateLeft 1
  else slot w t

/-- R126, in the spec's own words: what the round at (STAGE, R) does, given its f (of the old B, C, D) and its k. -/
structure RoundEffect (stage r : Nat) (f k : Word) (s t : State) : Prop where
  a : t.work.a = s.work.a.rotateLeft 5 + f + s.work.e + roundWord s.w (20 * stage + r) + k
  b : t.work.b = s.work.a
  c : t.work.c = s.work.b.rotateLeft 30
  d : t.work.d = s.work.c
  e : t.work.e = s.work.d
  schedule : ∀ n, n < 16 →
    slot t.w n = if n = (20 * stage + r) % 16 then roundWord s.w (20 * stage + r) else slot s.w n
  next : t.seq =
    if r < 19 then { uop := 0b0101#4, stage := BitVec.ofNat 2 stage, r := BitVec.ofNat 5 (r + 1) }
    else if stage < 3 then { uop := 0b0101#4, stage := BitVec.ofNat 2 (stage + 1), r := 0 }
    else { uop := 0b0110#4, stage := 0, r := 0 }
  frame : OnlyWrites [.work, .w, .seq] s t

/-- The micro-operations of a transform (R130). -/
def transformOp : Instr → Bool
  | .xLoad => true
  | .xRoundCh _ => true
  | .xRoundPar1 _ => true
  | .xRoundMaj _ => true
  | .xRoundPar2 _ => true
  | .xAdd => true
  | .nop _ => false
  | .update _ => false
  | .finalize _ => false
  | .reset _ => false
  | .idle => false
  | .eInit => false
  | .bAppend => false
  | .bRetire => false
  | .fLatch => false
  | .fTerm => false
  | .fZero => false
  | .fSpill => false
  | .fLen => false
  | .fOut => false

/-- The block that X.LOAD reads (R52). -/
def State.block (s : State) : List Byte := (List.range 64).map s.loadByte

/-- The steps of a run, stopping nowhere but at a fault or a refusal. -/
def stepsTo (n : Nat) (s t : State) : Prop :=
  match n with
  | 0 => s = t
  | n + 1 => ∃ u, step s = .next u ∧ stepsTo n u t

end Sys2Proof.Machine
end

