-- ==== Sys2Proof/Certificates/Slice0/Obligations.lean ====
section
/-! DEFINITION. The statements for the provers. Each docstring names the rule of spec/ it formalises, or says that
what it states is the model's own choice and names the log entry. -/

open Sys2Proof Sys2Proof.Machine

/-! ### Encodings -/

/-- R72, R77: words written out bit by bit from the encodings decode to the instructions they stand for. -/
def Obligations.WrittenWordsDecode : Prop :=
  decode (.cmd 0b0000000000#10) = .ok (.nop 0x00#8) ∧
  decode (.cmd 0b0101100001#10) = .ok (.update 0x61#8) ∧
  decode (.cmd 0b1000000000#10) = .ok (.finalize 0x00#8) ∧
  decode (.cmd 0b1111111111#10) = .ok (.reset 0xFF#8) ∧
  decode (.seq 0b00100000000#11) = .ok .bAppend ∧
  decode (.seq 0b01010000000#11) = .ok (.xRoundCh 0#5) ∧
  decode (.seq 0b01010101011#11) = .ok (.xRoundPar1 11#5) ∧
  decode (.seq 0b01011110011#11) = .ok (.xRoundPar2 19#5) ∧
  decode (.seq 0b11000000000#11) = .ok .fOut

/-- R70, R72, R76, R77: decoding an encoded well-formed instruction gives it back with every operand, and a word that
decodes is the encoding of what it decodes to. -/
def Obligations.DecodeAndEncodeAgree : Prop :=
  (∀ i : Instr, i.wf = true → decode (encode i) = .ok i) ∧
  (∀ (c : CodeWord) (i : Instr), decode c = .ok i → i.wf = true ∧ encode i = c)

/-- R72: every 10-bit word selects exactly one row of the command table, by `(w AND mask) = match`, and decodes to
that row's command with its data byte. -/
def Obligations.CommandWordSelectsOneRow : Prop :=
  ∀ w : BitVec 10, ∃ x ∈ opcodeTable,
    x.selects .cmd (w.setWidth 11) = true ∧
    (∀ y ∈ opcodeTable, y.selects .cmd (w.setWidth 11) = true → y = x) ∧
    x.mnemonic = (decodeCmd w).mnemonic ∧
    encode (decodeCmd w) = .cmd w

/-- R77: a sequencer word that decodes selects the row of its micro-operation and no other, by
`(w AND mask) = match`. -/
def Obligations.SequencerWordSelectsItsRow : Prop :=
  ∀ (w : BitVec 11) (i : Instr), decodeSeq w = .ok i →
    ∃ x ∈ opcodeTable, x.selects .seq w = true ∧ x.mnemonic = i.mnemonic ∧
      ∀ y ∈ opcodeTable, y.selects .seq w = true → y = x

/-- R79: the sequencer words that are reserved, and no others, are rejected. -/
def Obligations.ReservedSequencerWordsAreRejected : Prop :=
  ∀ w : BitVec 11,
    ((∃ e, decodeSeq w = .error e) ↔
      13 ≤ (w.extractLsb' 7 4).toNat ∨
      ((w.extractLsb' 7 4).toNat ≠ 5 ∧ (w.extractLsb' 0 7).toNat ≠ 0) ∨
      ((w.extractLsb' 7 4).toNat = 5 ∧ 20 ≤ (w.extractLsb' 0 5).toNat))

/-- R74: no command word is illegal, and the data field of NOP, FINALIZE and RESET changes nothing but CMDREG. -/
def Obligations.IgnoredDataFieldChangesNothing : Prop :=
  (∀ w : BitVec 10, ∃ i, decode (.cmd w) = .ok i) ∧
  nopWord = 0x000#10 ∧ finalizeWord = 0x200#10 ∧ resetWord = 0x300#10 ∧
  (∀ (d e : Byte) (s : State), ∃ t u,
    exec (.nop d) s = .next t ∧ exec (.nop e) s = .next u ∧ OnlyWrites [.cmdreg] t u) ∧
  (∀ (d e : Byte) (s : State), ∃ t u,
    exec (.finalize d) s = .next t ∧ exec (.finalize e) s = .next u ∧ OnlyWrites [.cmdreg] t u) ∧
  (∀ (d e : Byte) (s : State), ∃ t u,
    exec (.reset d) s = .next t ∧ exec (.reset e) s = .next u ∧ OnlyWrites [.cmdreg] t u)

/-! ### What a step runs -/

/-- R75: at a command boundary with `rst = 0` and `cmd_valid = 1` the word is accepted: the step is the command's
meaning on the state whose pins have been sampled. -/
def Obligations.StepAcceptsThePresentedCommand : Prop :=
  ∀ (s : State) (p : Pins) (ps : List Pins), s.seq = seqIdle → s.pins = p :: ps → p.rst = false → p.cmdValid = true →
    step s = exec (decodeCmd p.cmd) (s.setPins ps)

/-- R77, R78: otherwise, with `rst = 0`, the step runs the micro-operation that SEQ names; at IDLE with no word
presented that is the row IDLE. -/
def Obligations.StepRunsTheSequencerWord : Prop :=
  ∀ (s : State) (i : Instr), s.sample.rst = false → decode (.seq s.seq.word) = .ok i →
    (s.seq = seqIdle → s.sample.cmdValid = false) →
    step s = exec i (s.setPins s.pins.tail)

/-- R79, U6: with `rst = 0` a step refuses a state whose SEQ is reserved. -/
def Obligations.StepRefusesReservedSequencerWords : Prop :=
  ∀ (s : State) (e : DecodeError), s.sample.rst = false → decode (.seq s.seq.word) = .error e →
    step s = .refused (.reservedSeq e)

/-- R181, R182, R166, R196: `rst = 1` at any SEQ, whatever else is presented, is not ready for a command and leaves the
reset values that the spec fixes; the outputs once `rst` is 0 again; and a run that meets it ends there with no further
word presented. The model's own: that it holds at a reserved SEQ too (log entry 14), the clause on the pins (log entry
2), and that the run shows nothing for the word then in progress (log entry 19). -/
def Obligations.HardwareResetFromAnyState : Prop :=
  ∀ s : State, s.sample.rst = true → s.cmdReady = false ∧ ∃ t, step s = .next t ∧
    t.h = { h0 := 0x67452301, h1 := 0xEFCDAB89, h2 := 0x98BADCFE, h3 := 0x10325476, h4 := 0xC3D2E1F0 } ∧
    t.buflen = 0 ∧ t.nblk = 0 ∧ t.seq = { uop := 0, stage := 0, r := 0 } ∧
    t.dvalid = false ∧ t.faultFlag = false ∧ t.pins = s.pins.tail ∧
    (t.sample.rst = false → t.cmdReady = true ∧ t.digestValidPort = false ∧ t.lenFaultPort = false) ∧
    (∀ n, toBoundary (n + 1) s = .next (.reset t)) ∧
    (∀ c cs, runWords (c :: cs) s = .next { final := .reset t, shown := [] })

/-- R36, R181: the state after reset, in the fields the spec gives a value for; no cell of BUF is written. -/
def Obligations.ResetValues : Prop :=
  State.reset.h = { h0 := 0x67452301, h1 := 0xEFCDAB89, h2 := 0x98BADCFE, h3 := 0x10325476, h4 := 0xC3D2E1F0 } ∧
  State.reset.buflen = 0 ∧ State.reset.nblk = 0 ∧ State.reset.seq = { uop := 0, stage := 0, r := 0 } ∧
  State.reset.dvalid = false ∧ State.reset.faultFlag = false ∧ (∀ k, State.reset.cell k = none) ∧
  State.reset.cmdReady = true

/-- R184: a word presented while a command is in progress has no effect at all. -/
def Obligations.WordWhileBusyHasNoEffect : Prop :=
  ∀ (s : State) (p : Pins) (ps : List Pins), s.seq.uop ≠ 0 → p.rst = false →
    step (s.setPins (p :: ps)) = step (s.setPins (Pins.quiet :: ps))

/-! ### Commands at their acceptance -/

/-- R100: NOP does nothing but put its word into CMDREG, in every state. -/
def Obligations.NopOnlyLatchesItsWord : Prop :=
  (∀ d : Byte, encode (.nop d) = .cmd (0b00#2 ++ d)) ∧
  ∀ (d : Byte) (s : State), ∃ t, exec (.nop d) s = .next t ∧
    t.cmdreg = 0b00#2 ++ d ∧ OnlyWrites [.cmdreg] s t

/-- R75, R101, R163: RESET is accepted in every state, clears DVALID and FAULT and goes to E.INIT. -/
def Obligations.ResetCommandClearsBothFlags : Prop :=
  ∀ (d : Byte) (s : State), ∃ t, exec (.reset d) s = .next t ∧
    t.cmdreg = 0b11#2 ++ d ∧ t.dvalid = false ∧ t.faultFlag = false ∧
    t.seq = { uop := 0b0001, stage := 0, r := 0 } ∧
    OnlyWrites [.cmdreg, .dvalid, .faultFlag, .seq] s t

/-- R75, R110: an UPDATE that neither is ignored nor reaches the length bound clears DVALID and goes to B.APPEND. -/
def Obligations.UpdateAcceptanceSelectsAppend : Prop :=
  ∀ (d : Byte) (s : State), s.faultFlag = false → ¬ (s.nblk.toNat = 2 ^ 55 - 1 ∧ s.buflen.toNat = 63) →
    ∃ t, exec (.update d) s = .next t ∧
      t.cmdreg = 0b01#2 ++ d ∧ t.dvalid = false ∧ t.seq = { uop := 0b0010, stage := 0, r := 0 } ∧
      OnlyWrites [.cmdreg, .dvalid, .seq] s t

/-- R160, R161: the UPDATE that would make the message 2^61 bytes takes LEN_FAULT; nothing is saved, SEQ stays, and
the byte is not stored. -/
def Obligations.LengthFaultEntry : Prop :=
  ∀ (d : Byte) (s : State), s.faultFlag = false → s.nblk.toNat = 2 ^ 55 - 1 → s.buflen.toNat = 63 →
    ∃ t, exec (.update d) s = .next t ∧
      t.cmdreg = 0b01#2 ++ d ∧ t.dvalid = false ∧ t.faultFlag = true ∧
      OnlyWrites [.cmdreg, .dvalid, .faultFlag] s t

/-- R75, R140: FINALIZE with FAULT = 0 clears DVALID and goes to F.LATCH. -/
def Obligations.FinalizeAcceptanceSelectsLatch : Prop :=
  ∀ (d : Byte) (s : State), s.faultFlag = false →
    ∃ t, exec (.finalize d) s = .next t ∧
      t.cmdreg = 0b10#2 ++ d ∧ t.dvalid = false ∧ t.seq = { uop := 0b0111, stage := 0, r := 0 } ∧
      OnlyWrites [.cmdreg, .dvalid, .seq] s t

/-- R162: while FAULT = 1, UPDATE and FINALIZE are accepted and otherwise ignored; NOP and RESET do what they always
do. -/
def Obligations.FaultedEngineIgnoresUpdateAndFinalize : Prop :=
  ∀ (d : Byte) (s : State), s.faultFlag = true →
    (∃ t, exec (.nop d) s = .next t ∧ t.cmdreg = 0b00#2 ++ d ∧ OnlyWrites [.cmdreg] s t) ∧
    (∃ t, exec (.reset d) s = .next t ∧ t.faultFlag = false ∧ t.dvalid = false ∧
      t.seq = { uop := 0b0001, stage := 0, r := 0 } ∧ OnlyWrites [.cmdreg, .dvalid, .faultFlag, .seq] s t) ∧
    (∃ t, exec (.update d) s = .next t ∧ t.cmdreg = 0b01#2 ++ d ∧ OnlyWrites [.cmdreg] s t) ∧
    (∃ t, exec (.finalize d) s = .next t ∧ t.cmdreg = 0b10#2 ++ d ∧ OnlyWrites [.cmdreg] s t)

/-! ### Micro-operations -/

/-- R78: at IDLE with no command accepted nothing changes. -/
def Obligations.IdleChangesNothing : Prop :=
  ∀ s : State, s.seq = { uop := 0, stage := 0, r := 0 } → exec .idle s = .next s

/-- R102: E.INIT from any state. -/
def Obligations.EngineInitEffect : Prop :=
  encode .eInit = .seq 0x080 ∧
  ∀ s : State, ∃ t, exec .eInit s = .next t ∧
    t.h = { h0 := 0x67452301, h1 := 0xEFCDAB89, h2 := 0x98BADCFE, h3 := 0x10325476, h4 := 0xC3D2E1F0 } ∧
    t.buflen = 0 ∧ t.nblk = 0 ∧ t.seq = { uop := 0, stage := 0, r := 0 } ∧
    OnlyWrites [.h, .buflen, .nblk, .seq] s t

/-- R111: B.APPEND stores CMDREG[7:0] at BUF[BUFLEN]; a buffer that it fills goes to X.LOAD with XRET = UPD. R111's
precondition has FAULT = 0: that the same holds with FAULT = 1 is the model's reading (log entry 13). -/
def Obligations.BufferAppendEffect : Prop :=
  encode .bAppend = .seq 0x100 ∧
  ∀ s : State, s.buflen.toNat ≤ 63 → ∃ t, exec .bAppend s = .next t ∧
    t.buflen.toNat = s.buflen.toNat + 1 ∧
    (∀ k, t.cell k = if k = s.buflen.toNat then some (s.cmdreg.extractLsb' 0 8) else s.cell k) ∧
    (s.buflen.toNat = 63 → t.xret = .upd ∧ t.seq = { uop := 0b0100, stage := 0, r := 0 }) ∧
    (s.buflen.toNat ≠ 63 → t.xret = s.xret ∧ t.seq = { uop := 0, stage := 0, r := 0 }) ∧
    OnlyWrites [.buf, .buflen, .xret, .seq] s t

/-- R112: B.RETIRE counts the block and empties the buffer; up to 2^55 − 2 the count grows by exactly one. Outside R112's
precondition (BUFLEN = 64, NBLK at most 2^55 − 2), the wrap at 2^64 among it, it is the model's reading (log entry
13). -/
def Obligations.BufferRetireEffect : Prop :=
  encode .bRetire = .seq 0x180 ∧
  ∀ s : State, ∃ t, exec .bRetire s = .next t ∧
    t.nblk = s.nblk + 1 ∧ (s.nblk.toNat ≤ 2 ^ 55 - 2 → t.nblk.toNat = s.nblk.toNat + 1) ∧
    t.buflen = 0 ∧ t.seq = { uop := 0, stage := 0, r := 0 } ∧
    OnlyWrites [.buflen, .nblk, .seq] s t

/-- R120, R51, R82: with 64 pending bytes X.LOAD forms the sixteen big-endian words, copies H into A to E and draws no
free value. -/
def Obligations.LoadReadsTheBlockBigEndian : Prop :=
  encode .xLoad = .seq 0x200 ∧
  ∀ (s : State) (b : Nat → Byte), s.buflen.toNat = 64 → (∀ k, k < 64 → s.cell k = some (b k)) →
    ∃ t, exec .xLoad s = .next t ∧
      (∀ j, j < 16 → slot t.w j = b (4 * j) ++ b (4 * j + 1) ++ b (4 * j + 2) ++ b (4 * j + 3)) ∧
      t.work.a = s.h.h0 ∧ t.work.b = s.h.h1 ∧ t.work.c = s.h.h2 ∧ t.work.d = s.h.h3 ∧ t.work.e = s.h.h4 ∧
      t.seq = { uop := 0b0101, stage := 0, r := 0 } ∧
      OnlyWrites [.work, .w, .seq] s t

/-- X.LOAD completes in every state (spec/42_block_transform.md section 1); where a cell holds no pending byte its word
takes a free value (log entry 5, the model's own choice), and no register but W, A to E and SEQ changes. -/
def Obligations.LoadCompletesInEveryState : Prop :=
  ∀ s : State, ∃ t, exec .xLoad s = .next t ∧
    t.work.a = s.h.h0 ∧ t.work.b = s.h.h1 ∧ t.work.c = s.h.h2 ∧ t.work.d = s.h.h3 ∧ t.work.e = s.h.h4 ∧
    t.seq = { uop := 0b0101, stage := 0, r := 0 } ∧
    OnlyWrites [.work, .w, .seq, .free] s t

/-- R121, R122, R123, R124, R125, R126: the four X.ROUND micro-operations, for every legal R and from every state. -/
def Obligations.RoundEffects : Prop :=
  (∀ r : BitVec 5, encode (.xRoundCh r) = .seq (0x280#11 ||| r.setWidth 11) ∧
    encode (.xRoundPar1 r) = .seq (0x2A0#11 ||| r.setWidth 11) ∧
    encode (.xRoundMaj r) = .seq (0x2C0#11 ||| r.setWidth 11) ∧
    encode (.xRoundPar2 r) = .seq (0x2E0#11 ||| r.setWidth 11)) ∧
  ∀ (r : BitVec 5) (s : State), r.toNat ≤ 19 →
    (∃ t, exec (.xRoundCh r) s = .next t ∧
      RoundEffect 0 r.toNat ((s.work.b &&& (s.work.c ^^^ s.work.d)) ^^^ s.work.d) 0x5A827999 s t) ∧
    (∃ t, exec (.xRoundPar1 r) s = .next t ∧
      RoundEffect 1 r.toNat (s.work.b ^^^ s.work.c ^^^ s.work.d) 0x6ED9EBA1 s t) ∧
    (∃ t, exec (.xRoundMaj r) s = .next t ∧
      RoundEffect 2 r.toNat ((s.work.b &&& s.work.c) ||| (s.work.b &&& s.work.d) ||| (s.work.c &&& s.work.d))
        0x8F1BBCDC s t) ∧
    (∃ t, exec (.xRoundPar2 r) s = .next t ∧
      RoundEffect 3 r.toNat (s.work.b ^^^ s.work.c ^^^ s.work.d) 0xCA62C1D6 s t)

/-- R79: an X.ROUND with R from 20 to 31 is reserved and refused. -/
def Obligations.ReservedRoundsAreRefused : Prop :=
  ∀ (r : BitVec 5) (s : State), 20 ≤ r.toNat →
    exec (.xRoundCh r) s = .refused (.reservedRound r) ∧ exec (.xRoundPar1 r) s = .refused (.reservedRound r) ∧
    exec (.xRoundMaj r) s = .refused (.reservedRound r) ∧ exec (.xRoundPar2 r) s = .refused (.reservedRound r)

/-- R127: X.ADD adds A to E into H modulo 2^32 and returns where XRET says. -/
def Obligations.AddFoldsTheWorkingRegisters : Prop :=
  encode .xAdd = .seq 0x300 ∧
  ∀ s : State, ∃ t, exec .xAdd s = .next t ∧
    t.h.h0.toNat = (s.h.h0.toNat + s.work.a.toNat) % 2 ^ 32 ∧
    t.h.h1.toNat = (s.h.h1.toNat + s.work.b.toNat) % 2 ^ 32 ∧
    t.h.h2.toNat = (s.h.h2.toNat + s.work.c.toNat) % 2 ^ 32 ∧
    t.h.h3.toNat = (s.h.h3.toNat + s.work.d.toNat) % 2 ^ 32 ∧
    t.h.h4.toNat = (s.h.h4.toNat + s.work.e.toNat) % 2 ^ 32 ∧
    (s.xret = .upd → t.seq = { uop := 0b0011, stage := 0, r := 0 }) ∧
    (s.xret = .spill → t.seq = { uop := 0b1010, stage := 0, r := 0 }) ∧
    (s.xret = .last → t.seq = { uop := 0b1100, stage := 0, r := 0 }) ∧
    OnlyWrites [.h, .seq] s t

/-- R141: F.LATCH computes the bit length; within the length bound it is exact, at most 2^64 − 8 and a multiple of 8
(R83). Outside the bound, the clause modulo 2^64 is the model's reading (log entry 13). -/
def Obligations.LatchComputesTheBitLength : Prop :=
  encode .fLatch = .seq 0x380 ∧
  ∀ s : State, ∃ t, exec .fLatch s = .next t ∧
    t.lenbits.toNat = (512 * s.nblk.toNat + 8 * s.buflen.toNat) % 2 ^ 64 ∧
    (s.nblk.toNat ≤ 2 ^ 55 - 1 → s.buflen.toNat ≤ 63 →
      t.lenbits.toNat = 512 * s.nblk.toNat + 8 * s.buflen.toNat ∧ t.lenbits.toNat ≤ 2 ^ 64 - 8 ∧
      t.lenbits.toNat % 8 = 0 ∧ t.lenbits = (s.nblk <<< 9) ||| (s.buflen.setWidth 64 <<< 3)) ∧
    t.seq = { uop := 0b1000, stage := 0, r := 0 } ∧
    OnlyWrites [.lenbits, .seq] s t

/-- R142: F.TERM appends 0x80 and decides on the spill block: strictly past 56. -/
def Obligations.TerminatorEffect : Prop :=
  encode .fTerm = .seq 0x400 ∧
  ∀ s : State, s.buflen.toNat ≤ 63 → ∃ t, exec .fTerm s = .next t ∧
    t.buflen.toNat = s.buflen.toNat + 1 ∧
    (∀ k, t.cell k = if k = s.buflen.toNat then some 0x80#8 else s.cell k) ∧
    t.xret = (if s.buflen.toNat + 1 > 56 then .spill else .last) ∧
    t.seq = { uop := if s.buflen.toNat = 55 then 0b1011 else if s.buflen.toNat = 63 then 0b0100 else 0b1001,
              stage := 0, r := 0 } ∧
    OnlyWrites [.buf, .buflen, .xret, .seq] s t

/-- R143: F.ZERO appends 0x00 and goes on until 56 bytes (XRET = LAST) or 64 bytes (XRET = SPILL). With XRET = LAST and
BUFLEN from 56 to 63, outside R143's precondition, the successor F.ZERO is the model's reading (log entry 13). -/
def Obligations.ZeroFillEffect : Prop :=
  encode .fZero = .seq 0x480 ∧
  ∀ s : State, s.buflen.toNat ≤ 63 → s.xret ≠ .upd → ∃ t, exec .fZero s = .next t ∧
    t.buflen.toNat = s.buflen.toNat + 1 ∧
    (∀ k, t.cell k = if k = s.buflen.toNat then some 0x00#8 else s.cell k) ∧
    (s.xret = .last →
      t.seq = { uop := if s.buflen.toNat + 1 = 56 then 0b1011 else 0b1001, stage := 0, r := 0 }) ∧
    (s.xret = .spill →
      t.seq = { uop := if s.buflen.toNat + 1 = 64 then 0b0100 else 0b1001, stage := 0, r := 0 }) ∧
    OnlyWrites [.buf, .buflen, .seq] s t

/-- F.ZERO with XRET = UPD, which R30 says does not occur (log entry 6, the model's own choice): the byte is appended
all the same, and only the successor, which R78 does not give, is a free value. -/
def Obligations.ZeroFillWithoutTargetStillAppends : Prop :=
  ∀ s : State, s.buflen.toNat ≤ 63 → s.xret = .upd → ∃ t, exec .fZero s = .next t ∧
    t.buflen.toNat = s.buflen.toNat + 1 ∧
    (∀ k, t.cell k = if k = s.buflen.toNat then some 0x00#8 else s.cell k) ∧
    OnlyWrites [.buf, .buflen, .seq, .free] s t

/-- R144: F.SPILL empties the buffer for the last block. The frame holds NBLK too: that it is not incremented is the
spec's decision D8, not observable (U15). Outside R144's precondition (BUFLEN = 64, XRET = SPILL) it is the model's
reading (log entry 13). -/
def Obligations.SpillEffect : Prop :=
  encode .fSpill = .seq 0x500 ∧
  ∀ s : State, ∃ t, exec .fSpill s = .next t ∧
    t.buflen = 0 ∧ t.xret = .last ∧ t.seq = { uop := 0b1001, stage := 0, r := 0 } ∧
    OnlyWrites [.buflen, .xret, .seq] s t

/-- R145, R53, R83: F.LEN stores LENBITS at BUF[56..63], most significant byte at 56, and no other cell. Outside R145's
precondition (BUFLEN = 56, XRET = LAST) it is the model's reading (log entry 13). -/
def Obligations.LengthFieldEffect : Prop :=
  encode .fLen = .seq 0x580 ∧
  ∀ s : State, ∃ t, exec .fLen s = .next t ∧
    (∀ i, i < 8 → t.cell (56 + i) = some ((s.lenbits >>> (8 * (7 - i))).setWidth 8)) ∧
    (∀ k, k < 56 ∨ 64 ≤ k → t.cell k = s.cell k) ∧
    t.buflen = 64 ∧ t.seq = { uop := 0b0100, stage := 0, r := 0 } ∧
    OnlyWrites [.buf, .buflen, .seq] s t

/-- R146, R84: F.OUT serialises the five digest words, big-endian, into DIGEST and sets DVALID. Outside R146's
precondition (X.ADD has just run with XRET = LAST) it is the model's reading (log entry 13). -/
def Obligations.DigestOutEffect : Prop :=
  encode .fOut = .seq 0x600 ∧
  ∀ s : State, ∃ t, exec .fOut s = .next t ∧
    (∀ (n : Nat) (hn : n < 4),
      t.digest[n] = (s.h.h0 >>> (8 * (3 - n))).setWidth 8 ∧
      t.digest[4 + n] = (s.h.h1 >>> (8 * (3 - n))).setWidth 8 ∧
      t.digest[8 + n] = (s.h.h2 >>> (8 * (3 - n))).setWidth 8 ∧
      t.digest[12 + n] = (s.h.h3 >>> (8 * (3 - n))).setWidth 8 ∧
      t.digest[16 + n] = (s.h.h4 >>> (8 * (3 - n))).setWidth 8) ∧
    t.dvalid = true ∧ t.seq = { uop := 0b0001, stage := 0, r := 0 } ∧
    OnlyWrites [.digest, .dvalid, .seq] s t

/-- R50, R53 (the fault is the model's own, spec/20_memory.md sections 1 and 2): a byte append at BUFLEN 64 or more
would leave the address space, and stops. -/
def Obligations.AppendOutsideTheBufferFaults : Prop :=
  ∀ s : State, 64 ≤ s.buflen.toNat →
    exec .bAppend s = .fault (.bufIndex s.buflen.toNat) ∧ exec .fTerm s = .fault (.bufIndex s.buflen.toNat) ∧
    exec .fZero s = .fault (.bufIndex s.buflen.toNat)

/-! ### Frames and flags, over all instructions -/

/-- R37, R43: an instruction writes no field but those of its row in the access summary. -/
def Obligations.AccessSummary : Prop :=
  ∀ (i : Instr) (s t : State), exec i s = .next t → OnlyWrites (instrWrites i) s t

/-- R53, R63: the stored bytes land at the index of the instruction's addressing mode, inside BUF, and every other
cell reads as before; an instruction that stores nothing leaves every cell. -/
def Obligations.EveryOtherCellKeepsItsByte : Prop :=
  ∀ (i : Instr) (s t : State), exec i s = .next t →
    (instrStores i s = none → ∀ k, t.cell k = s.cell k) ∧
    (∀ a bs, instrStores i s = some (a, bs) → a + bs.length ≤ 64 ∧
      ∀ k, t.cell k = if a ≤ k ∧ k < a + bs.length then bs[k - a]? else s.cell k)

/-- R32, R33: with `rst = 0`, FAULT is set at the acceptance of a faulting UPDATE alone and cleared at the acceptance of a
RESET alone; DVALID is set by F.OUT alone and cleared at the acceptance of an UPDATE, FINALIZE or RESET alone. -/
def Obligations.FlagsChangeOnlyWhereTheRulesSay : Prop :=
  ∀ s t : State, s.sample.rst = false → step s = .next t →
    (s.faultFlag = false → t.faultFlag = true →
      s.seq = seqIdle ∧ s.sample.cmdValid = true ∧ (∃ d, decodeCmd s.sample.cmd = .update d) ∧
        s.nblk.toNat = 2 ^ 55 - 1 ∧ s.buflen.toNat = 63) ∧
    (s.faultFlag = true → t.faultFlag = false →
      s.seq = seqIdle ∧ s.sample.cmdValid = true ∧ ∃ d, decodeCmd s.sample.cmd = .reset d) ∧
    (s.dvalid = false → t.dvalid = true → s.seq = { uop := 0b1100, stage := 0, r := 0 }) ∧
    (s.dvalid = true → t.dvalid = false → s.seq = seqIdle ∧ s.sample.cmdValid = true ∧
      ∀ d, decodeCmd s.sample.cmd ≠ .nop d)

/-- R135, R78: where a transform goes next depends on SEQ and XRET alone, not on the block or on H. -/
def Obligations.TransformControlIsDataIndependent : Prop :=
  ∀ (i : Instr) (s s' t t' : State), transformOp i = true → s.xret = s'.xret →
    exec i s = .next t → exec i s' = .next t' → t.seq = t'.seq

/-! ### Invariants -/

/-- Every step keeps the invariant: BUF canonical and written below BUFLEN, R25's bounds, SEQ no reserved word, each
micro-operation's precondition (R111 to R146). -/
def Obligations.EveryStepKeepsTheInvariant : Prop :=
  ∀ s t : State, Inv s → step s = .next t → Inv t

/-- The invariant holds after reset. -/
def Obligations.ResetSatisfiesTheInvariant : Prop := Inv State.reset

/-- R16, R79, R164: in a state of the invariant a step always answers a next state; no fault or refusal is
reachable. -/
def Obligations.InvariantStatesNeverStop : Prop :=
  ∀ s : State, Inv s → ∃ t, step s = .next t

/-- R39: from a state of the invariant, with `rst = 0`, no step reads an unwritten value: none draws a free value. -/
def Obligations.NoStepReadsAnUnwrittenValue : Prop :=
  ∀ s t : State, Inv s → s.sample.rst = false → step s = .next t → t.free = s.free

/-- R25: the facts of a command boundary, whether or not FAULT is set. -/
def Obligations.CommandBoundaryFacts : Prop :=
  ∀ s : State, Inv s → s.seq = seqIdle → BoundaryFacts s

/-! ### The transform -/

/-- R129: the truth tables of the three functions, bit by bit. -/
def Obligations.RoundFunctionTruthTables : Prop :=
  ∀ (b c d : Word) (n : Nat),
    (fCh b c d).getLsbD n = (if b.getLsbD n then c.getLsbD n else d.getLsbD n) ∧
    (fPar b c d).getLsbD n = (b.getLsbD n ^^ c.getLsbD n ^^ d.getLsbD n) ∧
    (fMaj b c d).getLsbD n =
      decide (2 ≤ (b.getLsbD n).toNat + (c.getLsbD n).toNat + (d.getLsbD n).toNat)

/-- R130, R131, R133: from X.LOAD with a full buffer, 82 steps leave Transform(H, BUF) in H and go where XRET says;
of all other state only A to E, W and SEQ change (and the pins that were sampled). -/
def Obligations.TransformRunsInEightyTwoSteps : Prop :=
  ∀ s : State, s.seq = seqXLoad → s.buflen.toNat = 64 → (∀ k, k < 64 → (s.cell k).isSome = true) → s.noReset →
    ∃ t, stepsTo 82 s t ∧ t.h = transform s.h s.block ∧ t.seq = addSuccessor s.xret ∧
      OnlyWrites [.h, .work, .w, .seq, .pins] s t

/-- R132: the in-place window and the expanded 80-word schedule give the same transform. -/
def Obligations.ExpandedScheduleAgrees : Prop :=
  ∀ (h : HWords) (blk : List Byte), blk.length = 64 → transform h blk = transformExpanded h blk

/-! ### Commands from boundary to boundary -/

/-- R16, with the command-level pseudocode of R100, R101, R110 and R140: an accepted command runs to the next command
boundary and makes exactly its command-level transition of the architectural state. -/
def Obligations.AcceptedCommandMakesItsTransition : Prop :=
  ∀ (s : State) (c : BitVec 10), Boundary s →
    ∃ t, runWord c s = .next (.ready t) ∧ Boundary t ∧ t.arch = s.arch.accept c

/-- R191, R80: from any state of the invariant, while `rst` stays 0, at most 233 steps reach a command boundary,
whatever the host presents meanwhile. -/
def Obligations.EveryCommandCompletes : Prop :=
  ∀ s : State, Inv s → s.noReset →
    ∃ n t, n ≤ 233 ∧ stepsTo n s t ∧ t.seq = seqIdle

/-- R104, R149: after every FINALIZE that is not ignored H = IV, BUFLEN = 0, NBLK = 0, and a digest is offered. -/
def Obligations.FinalizeReinitialises : Prop :=
  ∀ (s : State) (d : Byte), Boundary s → s.faultFlag = false →
    ∃ t, runWord (0b10#2 ++ d) s = .next (.ready t) ∧
      t.h = { h0 := 0x67452301, h1 := 0xEFCDAB89, h2 := 0x98BADCFE, h3 := 0x10325476, h4 := 0xC3D2E1F0 } ∧
      t.buflen = 0 ∧ t.nblk = 0 ∧ t.dvalid = true ∧ t.faultFlag = false

/-- R162, R163: from a faulted boundary no sequence without RESET yields a digest or clears the fault, and the
architectural state does not change. -/
def Obligations.FaultedEngineGivesNoDigest : Prop :=
  ∀ (s : State) (ws : List (BitVec 10)), Boundary s → s.faultFlag = true → (∀ c ∈ ws, cmdOp c ≠ 0b11#2) →
    ∃ t os, runWords ws s = .next { final := .ready t, shown := os } ∧ t.arch = s.arch ∧ os.length = ws.length ∧
      ∀ o ∈ os, o.lenFault = true ∧ o.digestValid = false ∧ o.digest = none

/-- R39, R42: two engines at command boundaries with the same architectural state show the same outputs under every
sequence of words: A to E, W, LENBITS, XRET, CMDREG, the DIGEST register while DVALID = 0 and the cells at BUFLEN and
above are never observed. -/
def Obligations.LeftoverRegistersAreNeverObserved : Prop :=
  ∀ (s s' : State) (ws : List (BitVec 10)), Boundary s → Boundary s' → s.arch = s'.arch →
    ∃ t t' os, runWords ws s = .next { final := .ready t, shown := os } ∧
      runWords ws s' = .next { final := .ready t', shown := os } ∧ t.arch = t'.arch

/-- R148: from the initial lifecycle point with FAULT = 0, UPDATEs whose bytes are m, m shorter than 2^61 bytes, and
one FINALIZE give DIGEST = SHA1(m) with DVALID = 1. -/
def Obligations.EngineComputesSha1 : Prop :=
  ∀ (s : State) (m : List Byte), Boundary s → s.faultFlag = false → s.buflen = 0 → s.nblk = 0 → m.length < 2 ^ 61 →
    ∃ t os, runWords (updateWords m ++ [finalizeWord]) s = .next { final := .ready t, shown := os } ∧
      t.dvalid = true ∧ t.digest = sha1 m

/-! ### The command level -/

/-- R41: an UPDATE that is neither ignored nor refused extends the absorbed message by its byte. -/
def Obligations.UpdateExtendsTheAbsorbedMessage : Prop :=
  ∀ (a : Arch) (m : List Byte) (x : Byte), Absorbed m a → a.fault = false → a.pending.length ≤ 63 →
    m.length + 1 < 2 ^ 61 → Absorbed (m ++ [x]) (a.update x) ∧ (a.update x).pending.length ≤ 63 ∧
      (a.update x).fault = false ∧ (a.update x).digest = none

/-- R113: the net effect of `update(data)` within the length bound. -/
def Obligations.MultiByteUpdateNetEffect : Prop :=
  ∀ (a : Arch) (data : List Byte), a.fault = false → a.pending.length ≤ 63 →
    64 * a.nblk.toNat + a.pending.length + data.length < 2 ^ 61 →
    (updateWords data).foldl (fun x c => x.accept c) a =
      { h := (blocks ((a.pending ++ data).length / 64) (a.pending ++ data)).foldl transform a.h
        pending := (a.pending ++ data).drop (64 * ((a.pending ++ data).length / 64))
        nblk := a.nblk + BitVec.ofNat 64 ((a.pending ++ data).length / 64)
        digest := if data = [] then a.digest else none
        fault := false }

/-- R100: NOPs inserted anywhere change nothing later. States past the bounds of R24 and R25 are the model's
(log entry 20). -/
def Obligations.NopsAreInvisible : Prop :=
  ∀ (a : Arch) (ws : List (BitVec 10)),
    ws.foldl (fun x c => x.accept c) a = (ws.filter fun c => cmdOp c ≠ 0b00#2).foldl (fun x c => x.accept c) a

/-- R40: the transitions between Idle and Accumulating, with FAULT = 0 and the length bound not reached. With more
than 63 pending bytes, which R25 excludes, it is the model's reading (log entry 20). -/
def Obligations.IdleAndAccumulatingTransitions : Prop :=
  ∀ (a : Arch) (x : Byte), a.nblk.toNat ≤ 2 ^ 55 - 1 →
    (a.fault = false → ¬ (a.nblk.toNat = 2 ^ 55 - 1 ∧ a.pending.length = 63) → (a.update x).accumulating = true) ∧
    (a.fault = false → a.finalize.idle = true) ∧ a.reset.idle = true ∧
    (a.accept (0b00#2 ++ x)).idle = a.idle

/-- R147: Pad(m) begins with m and 0x80, has whole blocks, is the shortest such with nine more bytes than m, and ends
in the bit length. -/
def Obligations.PaddingFillsWholeBlocks : Prop :=
  ∀ m : List Byte, m.length < 2 ^ 61 →
    (pad m).length % 64 = 0 ∧ m.length + 9 ≤ (pad m).length ∧ (pad m).length < m.length + 73 ∧
    (pad m).take (m.length + 1) = m ++ [0x80#8] ∧
    (∀ k, m.length < k → k < (pad m).length - 8 → (pad m)[k]? = some 0x00#8) ∧
    (pad m).drop ((pad m).length - 8) = be64 (BitVec.ofNat 64 (8 * m.length))

/-! ### Ports and instances -/

/-- R71, R34: byte k of DIGEST is bits 159 − 8k down to 152 − 8k of the `digest` port while DVALID = 1, and
`cmd_ready` is 1 exactly at IDLE with `rst = 0`. That the port gives no value while DVALID = 0 is the model's choice
(log entry 8). -/
def Obligations.OutputPorts : Prop :=
  ∀ s : State,
    (s.dvalid = true → ∃ v : BitVec 160, s.digestPort = some v ∧
      ∀ (k : Nat) (hk : k < 20), v.extractLsb' (152 - 8 * k) 8 = s.digest[k]) ∧
    (s.dvalid = false → s.digestPort = none) ∧
    s.digestValidPort = s.dvalid ∧ s.lenFaultPort = s.faultFlag ∧
    (s.cmdReady = true ↔ s.seq.uop = 0 ∧ s.sample.rst = false)

/-- R172, R9: there is at least one engine, and all start in the reset state; a step of one of n engines changes no other,
and the steps of two engines answer the same engines in either order, so none needs the other's coordination. That
concurrent engines step one at a time is the model's reading (log entry 15). -/
def Obligations.InstancesShareNoState : Prop :=
  (1 ≤ Config.nInstances ∧ ∀ k : Fin Config.nInstances, resetInstances[k] = State.reset) ∧
  ∀ (n : Nat) (es : Engines n) (k : Fin n) (t : State), step es[k] = .next t →
    ∃ us, stepInstance k es = .next us ∧ us[k] = t ∧ (∀ j : Fin n, j ≠ k → us[j] = es[j]) ∧
      ∀ (j : Fin n) (u : State), j ≠ k → step es[j] = .next u →
        ∃ vs ws, stepInstance j es = .next vs ∧ stepInstance j us = .next ws ∧ stepInstance k vs = .next ws
end

