-- ==== Sys2Proof/Laws/State.lean ====
section
/-! SUPPORT. One lemma per field per setter of State, so that no later proof unfolds a record update. -/

namespace Sys2Proof.Machine

variable (s : State)

@[simp] theorem setH_h (x : HWords) : (s.setH x).h = x := rfl
@[simp] theorem setH_buf (x : HWords) : (s.setH x).buf = s.buf := rfl
@[simp] theorem setH_buflen (x : HWords) : (s.setH x).buflen = s.buflen := rfl
@[simp] theorem setH_nblk (x : HWords) : (s.setH x).nblk = s.nblk := rfl
@[simp] theorem setH_work (x : HWords) : (s.setH x).work = s.work := rfl
@[simp] theorem setH_w (x : HWords) : (s.setH x).w = s.w := rfl
@[simp] theorem setH_lenbits (x : HWords) : (s.setH x).lenbits = s.lenbits := rfl
@[simp] theorem setH_seq (x : HWords) : (s.setH x).seq = s.seq := rfl
@[simp] theorem setH_xret (x : HWords) : (s.setH x).xret = s.xret := rfl
@[simp] theorem setH_cmdreg (x : HWords) : (s.setH x).cmdreg = s.cmdreg := rfl
@[simp] theorem setH_digest (x : HWords) : (s.setH x).digest = s.digest := rfl
@[simp] theorem setH_dvalid (x : HWords) : (s.setH x).dvalid = s.dvalid := rfl
@[simp] theorem setH_faultFlag (x : HWords) : (s.setH x).faultFlag = s.faultFlag := rfl
@[simp] theorem setH_pins (x : HWords) : (s.setH x).pins = s.pins := rfl
@[simp] theorem setH_free (x : HWords) : (s.setH x).free = s.free := rfl

@[simp] theorem setBuf_h (x : List Host.Cell) : (s.setBuf x).h = s.h := rfl
@[simp] theorem setBuf_buf (x : List Host.Cell) : (s.setBuf x).buf = x := rfl
@[simp] theorem setBuf_buflen (x : List Host.Cell) : (s.setBuf x).buflen = s.buflen := rfl
@[simp] theorem setBuf_nblk (x : List Host.Cell) : (s.setBuf x).nblk = s.nblk := rfl
@[simp] theorem setBuf_work (x : List Host.Cell) : (s.setBuf x).work = s.work := rfl
@[simp] theorem setBuf_w (x : List Host.Cell) : (s.setBuf x).w = s.w := rfl
@[simp] theorem setBuf_lenbits (x : List Host.Cell) : (s.setBuf x).lenbits = s.lenbits := rfl
@[simp] theorem setBuf_seq (x : List Host.Cell) : (s.setBuf x).seq = s.seq := rfl
@[simp] theorem setBuf_xret (x : List Host.Cell) : (s.setBuf x).xret = s.xret := rfl
@[simp] theorem setBuf_cmdreg (x : List Host.Cell) : (s.setBuf x).cmdreg = s.cmdreg := rfl
@[simp] theorem setBuf_digest (x : List Host.Cell) : (s.setBuf x).digest = s.digest := rfl
@[simp] theorem setBuf_dvalid (x : List Host.Cell) : (s.setBuf x).dvalid = s.dvalid := rfl
@[simp] theorem setBuf_faultFlag (x : List Host.Cell) : (s.setBuf x).faultFlag = s.faultFlag := rfl
@[simp] theorem setBuf_pins (x : List Host.Cell) : (s.setBuf x).pins = s.pins := rfl
@[simp] theorem setBuf_free (x : List Host.Cell) : (s.setBuf x).free = s.free := rfl

@[simp] theorem setBuflen_h (x : BitVec 7) : (s.setBuflen x).h = s.h := rfl
@[simp] theorem setBuflen_buf (x : BitVec 7) : (s.setBuflen x).buf = s.buf := rfl
@[simp] theorem setBuflen_buflen (x : BitVec 7) : (s.setBuflen x).buflen = x := rfl
@[simp] theorem setBuflen_nblk (x : BitVec 7) : (s.setBuflen x).nblk = s.nblk := rfl
@[simp] theorem setBuflen_work (x : BitVec 7) : (s.setBuflen x).work = s.work := rfl
@[simp] theorem setBuflen_w (x : BitVec 7) : (s.setBuflen x).w = s.w := rfl
@[simp] theorem setBuflen_lenbits (x : BitVec 7) : (s.setBuflen x).lenbits = s.lenbits := rfl
@[simp] theorem setBuflen_seq (x : BitVec 7) : (s.setBuflen x).seq = s.seq := rfl
@[simp] theorem setBuflen_xret (x : BitVec 7) : (s.setBuflen x).xret = s.xret := rfl
@[simp] theorem setBuflen_cmdreg (x : BitVec 7) : (s.setBuflen x).cmdreg = s.cmdreg := rfl
@[simp] theorem setBuflen_digest (x : BitVec 7) : (s.setBuflen x).digest = s.digest := rfl
@[simp] theorem setBuflen_dvalid (x : BitVec 7) : (s.setBuflen x).dvalid = s.dvalid := rfl
@[simp] theorem setBuflen_faultFlag (x : BitVec 7) : (s.setBuflen x).faultFlag = s.faultFlag := rfl
@[simp] theorem setBuflen_pins (x : BitVec 7) : (s.setBuflen x).pins = s.pins := rfl
@[simp] theorem setBuflen_free (x : BitVec 7) : (s.setBuflen x).free = s.free := rfl

@[simp] theorem setNblk_h (x : DWord) : (s.setNblk x).h = s.h := rfl
@[simp] theorem setNblk_buf (x : DWord) : (s.setNblk x).buf = s.buf := rfl
@[simp] theorem setNblk_buflen (x : DWord) : (s.setNblk x).buflen = s.buflen := rfl
@[simp] theorem setNblk_nblk (x : DWord) : (s.setNblk x).nblk = x := rfl
@[simp] theorem setNblk_work (x : DWord) : (s.setNblk x).work = s.work := rfl
@[simp] theorem setNblk_w (x : DWord) : (s.setNblk x).w = s.w := rfl
@[simp] theorem setNblk_lenbits (x : DWord) : (s.setNblk x).lenbits = s.lenbits := rfl
@[simp] theorem setNblk_seq (x : DWord) : (s.setNblk x).seq = s.seq := rfl
@[simp] theorem setNblk_xret (x : DWord) : (s.setNblk x).xret = s.xret := rfl
@[simp] theorem setNblk_cmdreg (x : DWord) : (s.setNblk x).cmdreg = s.cmdreg := rfl
@[simp] theorem setNblk_digest (x : DWord) : (s.setNblk x).digest = s.digest := rfl
@[simp] theorem setNblk_dvalid (x : DWord) : (s.setNblk x).dvalid = s.dvalid := rfl
@[simp] theorem setNblk_faultFlag (x : DWord) : (s.setNblk x).faultFlag = s.faultFlag := rfl
@[simp] theorem setNblk_pins (x : DWord) : (s.setNblk x).pins = s.pins := rfl
@[simp] theorem setNblk_free (x : DWord) : (s.setNblk x).free = s.free := rfl

@[simp] theorem setWork_h (x : Working) : (s.setWork x).h = s.h := rfl
@[simp] theorem setWork_buf (x : Working) : (s.setWork x).buf = s.buf := rfl
@[simp] theorem setWork_buflen (x : Working) : (s.setWork x).buflen = s.buflen := rfl
@[simp] theorem setWork_nblk (x : Working) : (s.setWork x).nblk = s.nblk := rfl
@[simp] theorem setWork_work (x : Working) : (s.setWork x).work = x := rfl
@[simp] theorem setWork_w (x : Working) : (s.setWork x).w = s.w := rfl
@[simp] theorem setWork_lenbits (x : Working) : (s.setWork x).lenbits = s.lenbits := rfl
@[simp] theorem setWork_seq (x : Working) : (s.setWork x).seq = s.seq := rfl
@[simp] theorem setWork_xret (x : Working) : (s.setWork x).xret = s.xret := rfl
@[simp] theorem setWork_cmdreg (x : Working) : (s.setWork x).cmdreg = s.cmdreg := rfl
@[simp] theorem setWork_digest (x : Working) : (s.setWork x).digest = s.digest := rfl
@[simp] theorem setWork_dvalid (x : Working) : (s.setWork x).dvalid = s.dvalid := rfl
@[simp] theorem setWork_faultFlag (x : Working) : (s.setWork x).faultFlag = s.faultFlag := rfl
@[simp] theorem setWork_pins (x : Working) : (s.setWork x).pins = s.pins := rfl
@[simp] theorem setWork_free (x : Working) : (s.setWork x).free = s.free := rfl

@[simp] theorem setW_h (x : Vector Word 16) : (s.setW x).h = s.h := rfl
@[simp] theorem setW_buf (x : Vector Word 16) : (s.setW x).buf = s.buf := rfl
@[simp] theorem setW_buflen (x : Vector Word 16) : (s.setW x).buflen = s.buflen := rfl
@[simp] theorem setW_nblk (x : Vector Word 16) : (s.setW x).nblk = s.nblk := rfl
@[simp] theorem setW_work (x : Vector Word 16) : (s.setW x).work = s.work := rfl
@[simp] theorem setW_w (x : Vector Word 16) : (s.setW x).w = x := rfl
@[simp] theorem setW_lenbits (x : Vector Word 16) : (s.setW x).lenbits = s.lenbits := rfl
@[simp] theorem setW_seq (x : Vector Word 16) : (s.setW x).seq = s.seq := rfl
@[simp] theorem setW_xret (x : Vector Word 16) : (s.setW x).xret = s.xret := rfl
@[simp] theorem setW_cmdreg (x : Vector Word 16) : (s.setW x).cmdreg = s.cmdreg := rfl
@[simp] theorem setW_digest (x : Vector Word 16) : (s.setW x).digest = s.digest := rfl
@[simp] theorem setW_dvalid (x : Vector Word 16) : (s.setW x).dvalid = s.dvalid := rfl
@[simp] theorem setW_faultFlag (x : Vector Word 16) : (s.setW x).faultFlag = s.faultFlag := rfl
@[simp] theorem setW_pins (x : Vector Word 16) : (s.setW x).pins = s.pins := rfl
@[simp] theorem setW_free (x : Vector Word 16) : (s.setW x).free = s.free := rfl

@[simp] theorem setLenbits_h (x : DWord) : (s.setLenbits x).h = s.h := rfl
@[simp] theorem setLenbits_buf (x : DWord) : (s.setLenbits x).buf = s.buf := rfl
@[simp] theorem setLenbits_buflen (x : DWord) : (s.setLenbits x).buflen = s.buflen := rfl
@[simp] theorem setLenbits_nblk (x : DWord) : (s.setLenbits x).nblk = s.nblk := rfl
@[simp] theorem setLenbits_work (x : DWord) : (s.setLenbits x).work = s.work := rfl
@[simp] theorem setLenbits_w (x : DWord) : (s.setLenbits x).w = s.w := rfl
@[simp] theorem setLenbits_lenbits (x : DWord) : (s.setLenbits x).lenbits = x := rfl
@[simp] theorem setLenbits_seq (x : DWord) : (s.setLenbits x).seq = s.seq := rfl
@[simp] theorem setLenbits_xret (x : DWord) : (s.setLenbits x).xret = s.xret := rfl
@[simp] theorem setLenbits_cmdreg (x : DWord) : (s.setLenbits x).cmdreg = s.cmdreg := rfl
@[simp] theorem setLenbits_digest (x : DWord) : (s.setLenbits x).digest = s.digest := rfl
@[simp] theorem setLenbits_dvalid (x : DWord) : (s.setLenbits x).dvalid = s.dvalid := rfl
@[simp] theorem setLenbits_faultFlag (x : DWord) : (s.setLenbits x).faultFlag = s.faultFlag := rfl
@[simp] theorem setLenbits_pins (x : DWord) : (s.setLenbits x).pins = s.pins := rfl
@[simp] theorem setLenbits_free (x : DWord) : (s.setLenbits x).free = s.free := rfl

@[simp] theorem setSeq_h (x : Seq) : (s.setSeq x).h = s.h := rfl
@[simp] theorem setSeq_buf (x : Seq) : (s.setSeq x).buf = s.buf := rfl
@[simp] theorem setSeq_buflen (x : Seq) : (s.setSeq x).buflen = s.buflen := rfl
@[simp] theorem setSeq_nblk (x : Seq) : (s.setSeq x).nblk = s.nblk := rfl
@[simp] theorem setSeq_work (x : Seq) : (s.setSeq x).work = s.work := rfl
@[simp] theorem setSeq_w (x : Seq) : (s.setSeq x).w = s.w := rfl
@[simp] theorem setSeq_lenbits (x : Seq) : (s.setSeq x).lenbits = s.lenbits := rfl
@[simp] theorem setSeq_seq (x : Seq) : (s.setSeq x).seq = x := rfl
@[simp] theorem setSeq_xret (x : Seq) : (s.setSeq x).xret = s.xret := rfl
@[simp] theorem setSeq_cmdreg (x : Seq) : (s.setSeq x).cmdreg = s.cmdreg := rfl
@[simp] theorem setSeq_digest (x : Seq) : (s.setSeq x).digest = s.digest := rfl
@[simp] theorem setSeq_dvalid (x : Seq) : (s.setSeq x).dvalid = s.dvalid := rfl
@[simp] theorem setSeq_faultFlag (x : Seq) : (s.setSeq x).faultFlag = s.faultFlag := rfl
@[simp] theorem setSeq_pins (x : Seq) : (s.setSeq x).pins = s.pins := rfl
@[simp] theorem setSeq_free (x : Seq) : (s.setSeq x).free = s.free := rfl

@[simp] theorem setXret_h (x : XRet) : (s.setXret x).h = s.h := rfl
@[simp] theorem setXret_buf (x : XRet) : (s.setXret x).buf = s.buf := rfl
@[simp] theorem setXret_buflen (x : XRet) : (s.setXret x).buflen = s.buflen := rfl
@[simp] theorem setXret_nblk (x : XRet) : (s.setXret x).nblk = s.nblk := rfl
@[simp] theorem setXret_work (x : XRet) : (s.setXret x).work = s.work := rfl
@[simp] theorem setXret_w (x : XRet) : (s.setXret x).w = s.w := rfl
@[simp] theorem setXret_lenbits (x : XRet) : (s.setXret x).lenbits = s.lenbits := rfl
@[simp] theorem setXret_seq (x : XRet) : (s.setXret x).seq = s.seq := rfl
@[simp] theorem setXret_xret (x : XRet) : (s.setXret x).xret = x := rfl
@[simp] theorem setXret_cmdreg (x : XRet) : (s.setXret x).cmdreg = s.cmdreg := rfl
@[simp] theorem setXret_digest (x : XRet) : (s.setXret x).digest = s.digest := rfl
@[simp] theorem setXret_dvalid (x : XRet) : (s.setXret x).dvalid = s.dvalid := rfl
@[simp] theorem setXret_faultFlag (x : XRet) : (s.setXret x).faultFlag = s.faultFlag := rfl
@[simp] theorem setXret_pins (x : XRet) : (s.setXret x).pins = s.pins := rfl
@[simp] theorem setXret_free (x : XRet) : (s.setXret x).free = s.free := rfl

@[simp] theorem setCmdreg_h (x : BitVec 10) : (s.setCmdreg x).h = s.h := rfl
@[simp] theorem setCmdreg_buf (x : BitVec 10) : (s.setCmdreg x).buf = s.buf := rfl
@[simp] theorem setCmdreg_buflen (x : BitVec 10) : (s.setCmdreg x).buflen = s.buflen := rfl
@[simp] theorem setCmdreg_nblk (x : BitVec 10) : (s.setCmdreg x).nblk = s.nblk := rfl
@[simp] theorem setCmdreg_work (x : BitVec 10) : (s.setCmdreg x).work = s.work := rfl
@[simp] theorem setCmdreg_w (x : BitVec 10) : (s.setCmdreg x).w = s.w := rfl
@[simp] theorem setCmdreg_lenbits (x : BitVec 10) : (s.setCmdreg x).lenbits = s.lenbits := rfl
@[simp] theorem setCmdreg_seq (x : BitVec 10) : (s.setCmdreg x).seq = s.seq := rfl
@[simp] theorem setCmdreg_xret (x : BitVec 10) : (s.setCmdreg x).xret = s.xret := rfl
@[simp] theorem setCmdreg_cmdreg (x : BitVec 10) : (s.setCmdreg x).cmdreg = x := rfl
@[simp] theorem setCmdreg_digest (x : BitVec 10) : (s.setCmdreg x).digest = s.digest := rfl
@[simp] theorem setCmdreg_dvalid (x : BitVec 10) : (s.setCmdreg x).dvalid = s.dvalid := rfl
@[simp] theorem setCmdreg_faultFlag (x : BitVec 10) : (s.setCmdreg x).faultFlag = s.faultFlag := rfl
@[simp] theorem setCmdreg_pins (x : BitVec 10) : (s.setCmdreg x).pins = s.pins := rfl
@[simp] theorem setCmdreg_free (x : BitVec 10) : (s.setCmdreg x).free = s.free := rfl

@[simp] theorem setDigest_h (x : Vector Byte 20) : (s.setDigest x).h = s.h := rfl
@[simp] theorem setDigest_buf (x : Vector Byte 20) : (s.setDigest x).buf = s.buf := rfl
@[simp] theorem setDigest_buflen (x : Vector Byte 20) : (s.setDigest x).buflen = s.buflen := rfl
@[simp] theorem setDigest_nblk (x : Vector Byte 20) : (s.setDigest x).nblk = s.nblk := rfl
@[simp] theorem setDigest_work (x : Vector Byte 20) : (s.setDigest x).work = s.work := rfl
@[simp] theorem setDigest_w (x : Vector Byte 20) : (s.setDigest x).w = s.w := rfl
@[simp] theorem setDigest_lenbits (x : Vector Byte 20) : (s.setDigest x).lenbits = s.lenbits := rfl
@[simp] theorem setDigest_seq (x : Vector Byte 20) : (s.setDigest x).seq = s.seq := rfl
@[simp] theorem setDigest_xret (x : Vector Byte 20) : (s.setDigest x).xret = s.xret := rfl
@[simp] theorem setDigest_cmdreg (x : Vector Byte 20) : (s.setDigest x).cmdreg = s.cmdreg := rfl
@[simp] theorem setDigest_digest (x : Vector Byte 20) : (s.setDigest x).digest = x := rfl
@[simp] theorem setDigest_dvalid (x : Vector Byte 20) : (s.setDigest x).dvalid = s.dvalid := rfl
@[simp] theorem setDigest_faultFlag (x : Vector Byte 20) : (s.setDigest x).faultFlag = s.faultFlag := rfl
@[simp] theorem setDigest_pins (x : Vector Byte 20) : (s.setDigest x).pins = s.pins := rfl
@[simp] theorem setDigest_free (x : Vector Byte 20) : (s.setDigest x).free = s.free := rfl

@[simp] theorem setDvalid_h (x : Bool) : (s.setDvalid x).h = s.h := rfl
@[simp] theorem setDvalid_buf (x : Bool) : (s.setDvalid x).buf = s.buf := rfl
@[simp] theorem setDvalid_buflen (x : Bool) : (s.setDvalid x).buflen = s.buflen := rfl
@[simp] theorem setDvalid_nblk (x : Bool) : (s.setDvalid x).nblk = s.nblk := rfl
@[simp] theorem setDvalid_work (x : Bool) : (s.setDvalid x).work = s.work := rfl
@[simp] theorem setDvalid_w (x : Bool) : (s.setDvalid x).w = s.w := rfl
@[simp] theorem setDvalid_lenbits (x : Bool) : (s.setDvalid x).lenbits = s.lenbits := rfl
@[simp] theorem setDvalid_seq (x : Bool) : (s.setDvalid x).seq = s.seq := rfl
@[simp] theorem setDvalid_xret (x : Bool) : (s.setDvalid x).xret = s.xret := rfl
@[simp] theorem setDvalid_cmdreg (x : Bool) : (s.setDvalid x).cmdreg = s.cmdreg := rfl
@[simp] theorem setDvalid_digest (x : Bool) : (s.setDvalid x).digest = s.digest := rfl
@[simp] theorem setDvalid_dvalid (x : Bool) : (s.setDvalid x).dvalid = x := rfl
@[simp] theorem setDvalid_faultFlag (x : Bool) : (s.setDvalid x).faultFlag = s.faultFlag := rfl
@[simp] theorem setDvalid_pins (x : Bool) : (s.setDvalid x).pins = s.pins := rfl
@[simp] theorem setDvalid_free (x : Bool) : (s.setDvalid x).free = s.free := rfl

@[simp] theorem setFault_h (x : Bool) : (s.setFault x).h = s.h := rfl
@[simp] theorem setFault_buf (x : Bool) : (s.setFault x).buf = s.buf := rfl
@[simp] theorem setFault_buflen (x : Bool) : (s.setFault x).buflen = s.buflen := rfl
@[simp] theorem setFault_nblk (x : Bool) : (s.setFault x).nblk = s.nblk := rfl
@[simp] theorem setFault_work (x : Bool) : (s.setFault x).work = s.work := rfl
@[simp] theorem setFault_w (x : Bool) : (s.setFault x).w = s.w := rfl
@[simp] theorem setFault_lenbits (x : Bool) : (s.setFault x).lenbits = s.lenbits := rfl
@[simp] theorem setFault_seq (x : Bool) : (s.setFault x).seq = s.seq := rfl
@[simp] theorem setFault_xret (x : Bool) : (s.setFault x).xret = s.xret := rfl
@[simp] theorem setFault_cmdreg (x : Bool) : (s.setFault x).cmdreg = s.cmdreg := rfl
@[simp] theorem setFault_digest (x : Bool) : (s.setFault x).digest = s.digest := rfl
@[simp] theorem setFault_dvalid (x : Bool) : (s.setFault x).dvalid = s.dvalid := rfl
@[simp] theorem setFault_faultFlag (x : Bool) : (s.setFault x).faultFlag = x := rfl
@[simp] theorem setFault_pins (x : Bool) : (s.setFault x).pins = s.pins := rfl
@[simp] theorem setFault_free (x : Bool) : (s.setFault x).free = s.free := rfl

@[simp] theorem setPins_h (x : List Pins) : (s.setPins x).h = s.h := rfl
@[simp] theorem setPins_buf (x : List Pins) : (s.setPins x).buf = s.buf := rfl
@[simp] theorem setPins_buflen (x : List Pins) : (s.setPins x).buflen = s.buflen := rfl
@[simp] theorem setPins_nblk (x : List Pins) : (s.setPins x).nblk = s.nblk := rfl
@[simp] theorem setPins_work (x : List Pins) : (s.setPins x).work = s.work := rfl
@[simp] theorem setPins_w (x : List Pins) : (s.setPins x).w = s.w := rfl
@[simp] theorem setPins_lenbits (x : List Pins) : (s.setPins x).lenbits = s.lenbits := rfl
@[simp] theorem setPins_seq (x : List Pins) : (s.setPins x).seq = s.seq := rfl
@[simp] theorem setPins_xret (x : List Pins) : (s.setPins x).xret = s.xret := rfl
@[simp] theorem setPins_cmdreg (x : List Pins) : (s.setPins x).cmdreg = s.cmdreg := rfl
@[simp] theorem setPins_digest (x : List Pins) : (s.setPins x).digest = s.digest := rfl
@[simp] theorem setPins_dvalid (x : List Pins) : (s.setPins x).dvalid = s.dvalid := rfl
@[simp] theorem setPins_faultFlag (x : List Pins) : (s.setPins x).faultFlag = s.faultFlag := rfl
@[simp] theorem setPins_pins (x : List Pins) : (s.setPins x).pins = x := rfl
@[simp] theorem setPins_free (x : List Pins) : (s.setPins x).free = s.free := rfl

@[simp] theorem setFree_h (x : Nat) : (s.setFree x).h = s.h := rfl
@[simp] theorem setFree_buf (x : Nat) : (s.setFree x).buf = s.buf := rfl
@[simp] theorem setFree_buflen (x : Nat) : (s.setFree x).buflen = s.buflen := rfl
@[simp] theorem setFree_nblk (x : Nat) : (s.setFree x).nblk = s.nblk := rfl
@[simp] theorem setFree_work (x : Nat) : (s.setFree x).work = s.work := rfl
@[simp] theorem setFree_w (x : Nat) : (s.setFree x).w = s.w := rfl
@[simp] theorem setFree_lenbits (x : Nat) : (s.setFree x).lenbits = s.lenbits := rfl
@[simp] theorem setFree_seq (x : Nat) : (s.setFree x).seq = s.seq := rfl
@[simp] theorem setFree_xret (x : Nat) : (s.setFree x).xret = s.xret := rfl
@[simp] theorem setFree_cmdreg (x : Nat) : (s.setFree x).cmdreg = s.cmdreg := rfl
@[simp] theorem setFree_digest (x : Nat) : (s.setFree x).digest = s.digest := rfl
@[simp] theorem setFree_dvalid (x : Nat) : (s.setFree x).dvalid = s.dvalid := rfl
@[simp] theorem setFree_faultFlag (x : Nat) : (s.setFree x).faultFlag = s.faultFlag := rfl
@[simp] theorem setFree_pins (x : Nat) : (s.setFree x).pins = s.pins := rfl
@[simp] theorem setFree_free (x : Nat) : (s.setFree x).free = x := rfl

/-! ### The composed operations -/

@[simp] theorem clearDvalid_eq : s.clearDvalid = s.setDvalid false := rfl
@[simp] theorem publishDigest_eq : s.publishDigest = s.setDvalid true := rfl
@[simp] theorem raiseLenFault_eq : s.raiseLenFault = (s.setDvalid false).setFault true := rfl
@[simp] theorem clearFlags_eq : s.clearFlags = (s.setDvalid false).setFault false := rfl
@[simp] theorem initMessage_eq : s.initMessage = ((s.setH iv).setBuflen 0).setNblk 0 := rfl

@[simp] theorem cell_setBuf (x : List Host.Cell) (k : Nat) : (s.setBuf x).cell k = Memory.lookup x k := rfl

/-- A write of any field but BUF leaves the cells alone. -/
theorem cell_of_buf {s t : State} (h : t.buf = s.buf) (k : Nat) : t.cell k = s.cell k := by
  simp [State.cell, h]

end Sys2Proof.Machine
end

