-- ==== Sys2Proof/Laws/Memory.lean ====
section
/-! SUPPORT. The buffer as a memory: read after write, every other cell left alone, and the canonical form kept by every
memory operation (spec/20_memory.md R50 to R53). -/

namespace Sys2Proof.Machine

@[simp] theorem lookup_nil (k : Nat) : Memory.lookup [] k = none := rfl

/-- Read after write, and every other index as before. -/
theorem lookup_insert (m : List Host.Cell) (k j : Nat) (v : Byte) :
    Memory.lookup (Memory.insert m k v) j = if k = j then some v else Memory.lookup m j := by
  induction m with
  | nil => simp [Memory.insert, Memory.lookup]
  | cons c m ih =>
    obtain ⟨a, b⟩ := c
    simp only [Memory.insert]
    split
    · simp [Memory.lookup]
    · split
      · next h => subst h; by_cases hj : k = j <;> simp [Memory.lookup, hj]
      · next h1 h2 =>
        simp only [Memory.lookup, ih]
        by_cases ha : a = j
        · subst ha; simp [h2]
        · simp [ha]

theorem risingFrom_insert {m : List Host.Cell} {lo k : Nat} (v : Byte) (h : Memory.risingFrom lo m = true)
    (hk : lo ≤ k) : Memory.risingFrom lo (Memory.insert m k v) = true := by
  induction m generalizing lo with
  | nil => simp [Memory.insert, Memory.risingFrom, hk]
  | cons c m ih =>
    obtain ⟨a, b⟩ := c
    simp only [Memory.risingFrom, Bool.and_eq_true, decide_eq_true_eq] at h
    simp only [Memory.insert]
    split
    · simp only [Memory.risingFrom, Bool.and_eq_true, decide_eq_true_eq]
      exact ⟨hk, by omega, h.2⟩
    · split
      · next h1 h2 => subst h2; simp [Memory.risingFrom, hk, h.2]
      · next h1 h2 =>
        simp only [Memory.risingFrom, Bool.and_eq_true, decide_eq_true_eq]
        exact ⟨h.1, ih h.2 (by omega)⟩

theorem all_insert {m : List Host.Cell} {k : Nat} (v : Byte) {p : Host.Cell → Bool} (h : m.all p = true)
    (hk : p (k, v) = true) : (Memory.insert m k v).all p = true := by
  induction m with
  | nil => simp [Memory.insert, hk]
  | cons c m ih =>
    obtain ⟨a, b⟩ := c
    simp only [List.all_cons, Bool.and_eq_true] at h
    simp only [Memory.insert]
    split
    · simp [hk, h.1, h.2]
    · split
      · simp [hk, h.2]
      · simp [h.1, ih h.2]

/-- One cell written inside the address space keeps the canonical form. -/
theorem wf_insert {m : List Host.Cell} {k : Nat} (v : Byte) (h : Memory.wf m = true) (hk : k < blockBytes) :
    Memory.wf (Memory.insert m k v) = true := by
  simp only [Memory.wf, Bool.and_eq_true] at h ⊢
  exact ⟨risingFrom_insert v h.1 (Nat.zero_le k), all_insert v h.2 (by simpa using hk)⟩

/-- The memory at reset is in canonical form. -/
theorem wf_reset : Memory.wf State.reset.buf = true := rfl

/-- Consecutive cells written inside the address space keep the canonical form. -/
theorem wf_store {m : List Host.Cell} {k : Nat} (bs : List Byte) (h : Memory.wf m = true)
    (hk : k + bs.length ≤ blockBytes) : Memory.wf (Memory.store m k bs) = true := by
  induction bs generalizing m k with
  | nil => exact h
  | cons b bs ih =>
    simp only [List.length_cons] at hk
    exact ih (wf_insert b h (by omega)) (by omega)

theorem lookup_store (m : List Host.Cell) (k j : Nat) (bs : List Byte) :
    Memory.lookup (Memory.store m k bs) j =
      if k ≤ j ∧ j < k + bs.length then bs[j - k]? else Memory.lookup m j := by
  induction bs generalizing m k with
  | nil =>
    have hn : ¬ (k ≤ j ∧ j < k + ([] : List Byte).length) := by simp
    rw [if_neg hn]; rfl
  | cons b bs ih =>
    simp only [Memory.store, ih, lookup_insert, List.length_cons]
    by_cases h1 : k = j
    · subst h1; simp
    · by_cases h2 : k + 1 ≤ j ∧ j < k + 1 + bs.length
      · have h3 : k ≤ j ∧ j < k + (bs.length + 1) := by omega
        have h4 : j - k = (j - (k + 1)) + 1 := by omega
        rw [if_pos h2, if_pos h3, h4, List.getElem?_cons_succ]
      · have h3 : ¬ (k ≤ j ∧ j < k + (bs.length + 1)) := by omega
        rw [if_neg h2, if_neg h3, if_neg h1]

/-- Everything a write to BUF can do: it stays inside 0 to 63 and changes BUF alone. -/
theorem memWrite_ok {s t : State} {k : Nat} {bs : List Byte} (h : s.memWrite k bs = .ok t) :
    k + bs.length ≤ blockBytes ∧ t = s.setBuf (Memory.store s.buf k bs) := by
  simp only [State.memWrite] at h
  split at h
  · exact ⟨by assumption, by cases h; rfl⟩
  · cases h

theorem memWrite_eq_ok {s : State} {k : Nat} {bs : List Byte} (h : k + bs.length ≤ blockBytes) :
    s.memWrite k bs = .ok (s.setBuf (Memory.store s.buf k bs)) := by
  simp [State.memWrite, h]

/-- A write to BUF keeps the canonical form. -/
theorem wf_memWrite {s t : State} {k : Nat} {bs : List Byte} (h : Memory.wf s.buf = true)
    (hw : s.memWrite k bs = .ok t) : Memory.wf t.buf = true := by
  obtain ⟨hk, rfl⟩ := memWrite_ok hw
  exact wf_store bs h hk

/-- R53: everything an append can do. -/
theorem append_ok {s t : State} {b : Byte} (h : s.append b = .ok t) :
    s.buflen.toNat ≤ 63 ∧
      t = (s.setBuf (Memory.insert s.buf s.buflen.toNat b)).setBuflen (s.buflen + 1) := by
  simp only [State.append] at h
  split at h
  · next u hu =>
    obtain ⟨hk, rfl⟩ := memWrite_ok hu
    simp only [State.appendIndex, blockBytes, List.length_cons, List.length_nil] at hk
    refine ⟨by omega, ?_⟩
    cases h; rfl
  · cases h

theorem append_eq_ok {s : State} {b : Byte} (h : s.buflen.toNat ≤ 63) :
    s.append b = .ok ((s.setBuf (Memory.insert s.buf s.buflen.toNat b)).setBuflen (s.buflen + 1)) := by
  have : s.appendIndex + [b].length ≤ blockBytes := by simp [State.appendIndex, blockBytes]; omega
  simp only [State.append, memWrite_eq_ok this]
  rfl

theorem append_eq_error {s : State} {b : Byte} (h : 64 ≤ s.buflen.toNat) :
    s.append b = .error (.bufIndex s.buflen.toNat) := by
  have hn : ¬ s.appendIndex + [b].length ≤ blockBytes := by simp [State.appendIndex, blockBytes]; omega
  have hw : s.memWrite s.appendIndex [b] = .error (.bufIndex s.appendIndex) := if_neg hn
  simp only [State.append, hw]
  rfl

/-- R23: below 64 the increment of the 7-bit BUFLEN does not wrap. -/
theorem buflen_succ {s : State} (h : s.buflen.toNat ≤ 63) : (s.buflen + 1).toNat = s.buflen.toNat + 1 := by
  have h1 : (1 : BitVec 7).toNat = 1 := rfl
  rw [BitVec.toNat_add, h1]
  omega

@[simp] theorem be64_length (x : DWord) : (be64 x).length = 8 := rfl
@[simp] theorem be32_length (x : Word) : (be32 x).length = 4 := rfl

/-- R53: the length write always lies inside BUF. -/
theorem putLength_eq (s : State) (v : DWord) :
    s.putLength v = .ok ((s.setBuf (Memory.store s.buf 56 (be64 v))).setBuflen 64) := by
  simp [State.putLength, State.memWrite, lengthIndex, blockBytes]

end Sys2Proof.Machine
end

