-- ==== Sys2Proof/Laws/Operands.lean ====
section
/-! SUPPORT. The operands of the transform and of the padding: the schedule's slots, the rotations, the block read, the
successors and the bit length. -/

namespace Sys2Proof.Machine

/-! ### The schedule -/

theorem slot_mod (w : Vector Word 16) (n : Nat) : slot w (n % 16) = slot w n := by
  simp [slot]

theorem slot_ofFn (g : Fin 16 → Word) {j : Nat} (h : j < 16) : slot (Vector.ofFn g) j = g ⟨j, h⟩ := by
  simp [slot, Nat.mod_eq_of_lt h]

theorem slot_setSlot (w : Vector Word 16) (n m : Nat) (x : Word) :
    slot (setSlot w n x) m = if n % 16 = m % 16 then x else slot w m := by
  simp [slot, setSlot, Vector.getElem_set]

/-- R12: shift and or is the library's circular rotation. -/
theorem rotl_eq_rotateLeft {n : Nat} (h : n < 32) (x : Word) : rotl n x = x.rotateLeft n := by
  rw [BitVec.rotateLeft_def, Nat.mod_eq_of_lt h]; rfl

/-- R121: the schedule step writes the slot t mod 16 with the round's word and no other. -/
theorem slot_scheduleStep (w : Vector Word 16) (t : Nat) {n : Nat} (hn : n < 16) :
    slot (scheduleStep t w) n = if n = t % 16 then roundWord w t else slot w n := by
  unfold scheduleStep roundWord
  by_cases h : 16 ≤ t
  · simp only [h, if_true, slot_setSlot, rotl_eq_rotateLeft (by decide : 1 < 32), Nat.mod_mod, Nat.mod_eq_of_lt hn]
    by_cases h2 : n = t % 16 <;> simp [h2, eq_comm]
  · simp only [h, if_false]
    by_cases h2 : n = t % 16
    · subst h2; rw [if_pos rfl]; exact slot_mod w t
    · simp [h2]

/-- R121: the round uses the word of the slot after the step. -/
theorem slot_scheduleStep_self (w : Vector Word 16) (t : Nat) : slot (scheduleStep t w) t = roundWord w t := by
  rw [← slot_mod, slot_scheduleStep w t (Nat.mod_lt t (by decide)), if_pos rfl]

/-! ### The block read -/

/-- R52: a pending cell is read as it was written. -/
theorem loadByte_of_cell {s : State} {k : Nat} {b : Byte} (h : k < s.buflen.toNat) (hc : s.cell k = some b) :
    s.loadByte k = b := by
  simp [State.loadByte, h, hc]

theorem blockWritten_of_cells {s : State} (h : 64 ≤ s.buflen.toNat) (hc : ∀ k, k < 64 → (s.cell k).isSome = true) :
    s.blockWritten = true := by
  simp only [State.blockWritten, Bool.and_eq_true, decide_eq_true_eq, List.all_eq_true, List.mem_range]
  exact ⟨h, hc⟩

/-- The cells after an append at BUFLEN. -/
theorem lookup_append (s : State) (b : Byte) (k : Nat) :
    Memory.lookup (Memory.insert s.buf s.buflen.toNat b) k = if k = s.buflen.toNat then some b else s.cell k := by
  rw [lookup_insert]; simp [eq_comm, State.cell]

/-! ### Lengths and successors -/

/-- R160: the length test, in numbers. -/
theorem lengthExhausted_iff (s : State) :
    s.lengthExhausted = true ↔ s.nblk.toNat = 2 ^ 55 - 1 ∧ s.buflen.toNat = 63 := by
  have hm : maxNblk.toNat = 2 ^ 55 - 1 := by decide
  simp only [State.lengthExhausted, Bool.and_eq_true, decide_eq_true_eq]
  constructor
  · rintro ⟨h, h2⟩; exact ⟨by rw [h, hm], h2⟩
  · rintro ⟨h, h2⟩; exact ⟨BitVec.eq_of_toNat_eq (by rw [h, hm]), h2⟩

/-- R141: the bit length as a number. -/
theorem messageBits_toNat (s : State) :
    s.messageBits.toNat = (512 * s.nblk.toNat + 8 * s.buflen.toNat) % 2 ^ 64 := by
  have := s.buflen.isLt
  simp only [State.messageBits, BitVec.toNat_add, BitVec.toNat_mul, BitVec.toNat_ofNat, BitVec.toNat_setWidth]
  omega

/-- R142: F.TERM never chooses UPD, so no free value is drawn for its successor. -/
theorem padDraws_padTarget (n : Nat) : padDraws (padTarget n) = 0 := by
  unfold padTarget; split <;> rfl

theorem padTarget_of_le {n : Nat} (h : n ≤ 56) : padTarget n = .last := if_neg (by simp only [padPoint]; omega)

theorem padTarget_of_gt {n : Nat} (h : 56 < n) : padTarget n = .spill := if_pos h

end Sys2Proof.Machine
end

