-- ==== Sys2Proof/Laws/Exec.lean ====
section
/-! SUPPORT. One equation per instruction (and per case of it): the next state as setters over the old one. Later proofs
cite these and unfold no meaning. -/

namespace Sys2Proof.Machine

variable (s : State)

/-! ### Commands -/

theorem exec_nop (d : Byte) : exec (.nop d) s = .next (s.setCmdreg (cmdWord 0b00#2 d)) := rfl

theorem exec_reset (d : Byte) :
    exec (.reset d) s = .next ((((s.setCmdreg (cmdWord 0b11#2 d)).setDvalid false).setFault false).setSeq seqEInit) := rfl

theorem exec_update_ignored (d : Byte) {s : State} (h : s.faultFlag = true) :
    exec (.update d) s = .next (s.setCmdreg (cmdWord 0b01#2 d)) := by
  simp only [exec, execUpdate, h]; rfl

theorem exec_update_fault (d : Byte) {s : State} (h : s.faultFlag = false) (hl : s.lengthExhausted = true) :
    exec (.update d) s = .next (((s.setCmdreg (cmdWord 0b01#2 d)).setDvalid false).setFault true) := by
  simp only [exec, execUpdate, h, hl]; rfl

theorem exec_update_append (d : Byte) {s : State} (h : s.faultFlag = false) (hl : s.lengthExhausted = false) :
    exec (.update d) s = .next (((s.setCmdreg (cmdWord 0b01#2 d)).setDvalid false).setSeq seqBAppend) := by
  simp only [exec, execUpdate, h, hl]; rfl

theorem exec_finalize_ignored (d : Byte) {s : State} (h : s.faultFlag = true) :
    exec (.finalize d) s = .next (s.setCmdreg (cmdWord 0b10#2 d)) := by
  simp only [exec, execFinalize, h]; rfl

theorem exec_finalize_latch (d : Byte) {s : State} (h : s.faultFlag = false) :
    exec (.finalize d) s = .next (((s.setCmdreg (cmdWord 0b10#2 d)).setDvalid false).setSeq seqFLatch) := by
  simp only [exec, execFinalize, h]; rfl

/-! ### Engine and buffer -/

theorem exec_idle : exec .idle s = .next (s.setSeq seqIdle) := rfl

theorem exec_eInit : exec .eInit s = .next ((((s.setH iv).setBuflen 0).setNblk 0).setSeq seqIdle) := rfl

theorem exec_bAppend_full {s : State} (h : s.buflen.toNat = 63) :
    exec .bAppend s = .next ((((s.setBuf (Memory.insert s.buf s.buflen.toNat s.cmdByte)).setBuflen (s.buflen + 1)).setXret
      .upd).setSeq seqXLoad) := by
  have hn : (s.buflen + 1).toNat = blockBytes := by rw [buflen_succ (by omega), h]; rfl
  simp only [exec, execBAppend, append_eq_ok (Nat.le_of_eq h), State.afterAppend, setBuflen_buflen, hn, if_true]

theorem exec_bAppend_room {s : State} (h : s.buflen.toNat < 63) :
    exec .bAppend s = .next (((s.setBuf (Memory.insert s.buf s.buflen.toNat s.cmdByte)).setBuflen (s.buflen + 1)).setSeq
      seqIdle) := by
  have hn : ¬ (s.buflen + 1).toNat = blockBytes := by
    rw [buflen_succ (by omega)]; simp only [blockBytes]; omega
  simp only [exec, execBAppend, append_eq_ok (Nat.le_of_lt h), State.afterAppend, setBuflen_buflen, hn, if_false]

theorem exec_bAppend_outside {s : State} (h : 64 ≤ s.buflen.toNat) :
    exec .bAppend s = .fault (.bufIndex s.buflen.toNat) := by
  simp only [exec, execBAppend, append_eq_error h]

theorem exec_bRetire : exec .bRetire s = .next (((s.setNblk (s.nblk + 1)).setBuflen 0).setSeq seqIdle) := rfl

/-! ### Transform -/

theorem exec_xLoad :
    exec .xLoad s = .next ((((s.setW s.loadBlock).setWork (workOfH s.h)).setSeq (seqXRound 0 0)).setFree
      (if s.blockWritten then s.free else s.free + 64)) := rfl

theorem runRound_legal {stage : BitVec 2} {f : Word → Word → Word → Word} {k : Word} {r : BitVec 5} {s : State}
    (h : roundLegal r = true) : runRound stage f k r s = .next (s.roundBody stage f k r) := by
  simp [runRound, h]

theorem runRound_reserved {stage : BitVec 2} {f : Word → Word → Word → Word} {k : Word} {r : BitVec 5} {s : State}
    (h : roundLegal r = false) : runRound stage f k r s = .refused (.reservedRound r) := by
  simp [runRound, h]

theorem roundBody_eq (stage : BitVec 2) (f : Word → Word → Word → Word) (k : Word) (r : BitVec 5) :
    s.roundBody stage f k r =
      ((s.setW (scheduleStep (roundIndex stage r) s.w)).setWork
        (roundWork (f s.work.b s.work.c s.work.d) k (roundWord s.w (roundIndex stage r)) s.work)).setSeq
        (roundSuccessor stage r) := by
  simp only [State.roundBody, slot_scheduleStep_self]

theorem exec_xRoundCh {r : BitVec 5} {s : State} (h : roundLegal r = true) :
    exec (.xRoundCh r) s = .next (s.roundBody 0b00#2 fCh kCh r) := runRound_legal h

theorem exec_xRoundPar1 {r : BitVec 5} {s : State} (h : roundLegal r = true) :
    exec (.xRoundPar1 r) s = .next (s.roundBody 0b01#2 fPar kPar1 r) := runRound_legal h

theorem exec_xRoundMaj {r : BitVec 5} {s : State} (h : roundLegal r = true) :
    exec (.xRoundMaj r) s = .next (s.roundBody 0b10#2 fMaj kMaj r) := runRound_legal h

theorem exec_xRoundPar2 {r : BitVec 5} {s : State} (h : roundLegal r = true) :
    exec (.xRoundPar2 r) s = .next (s.roundBody 0b11#2 fPar kPar2 r) := runRound_legal h

theorem exec_xAdd : exec .xAdd s = .next ((s.setH (addWork s.h s.work)).setSeq (addSuccessor s.xret)) := rfl

/-! ### Finalize -/

theorem exec_fLatch : exec .fLatch s = .next ((s.setLenbits s.messageBits).setSeq seqFTerm) := rfl

theorem exec_fTerm {s : State} (h : s.buflen.toNat ≤ 63) :
    exec .fTerm s = .next ((((s.setBuf (Memory.insert s.buf s.buflen.toNat terminator)).setBuflen (s.buflen + 1)).setXret
      (padTarget (s.buflen.toNat + 1))).setSeq
        (padSuccessor (padTarget (s.buflen.toNat + 1)) (s.buflen.toNat + 1) s.free)) := by
  simp only [exec, execFTerm, append_eq_ok h, State.afterPad, setXret_xret, setXret_buflen, setBuflen_buflen,
    buflen_succ h, setXret_free, setBuflen_free, setBuf_free, padDraws_padTarget]
  rfl

theorem exec_fTerm_outside {s : State} (h : 64 ≤ s.buflen.toNat) :
    exec .fTerm s = .fault (.bufIndex s.buflen.toNat) := by
  simp only [exec, execFTerm, append_eq_error h]

theorem exec_fZero {s : State} (h : s.buflen.toNat ≤ 63) :
    exec .fZero s = .next ((((s.setBuf (Memory.insert s.buf s.buflen.toNat fillByte)).setBuflen (s.buflen + 1)).setSeq
      (padSuccessor s.xret (s.buflen.toNat + 1) s.free)).setFree (s.free + padDraws s.xret)) := by
  simp only [exec, execFZero, append_eq_ok h, State.afterPad, setBuflen_buflen, buflen_succ h, setBuflen_free,
    setBuf_free, setBuflen_xret, setBuf_xret]

theorem exec_fZero_outside {s : State} (h : 64 ≤ s.buflen.toNat) :
    exec .fZero s = .fault (.bufIndex s.buflen.toNat) := by
  simp only [exec, execFZero, append_eq_error h]

theorem exec_fSpill : exec .fSpill s = .next (((s.setBuflen 0).setXret .last).setSeq seqFZero) := rfl

theorem exec_fLen :
    exec .fLen s = .next (((s.setBuf (Memory.store s.buf 56 (be64 s.lenbits))).setBuflen 64).setSeq seqXLoad) := by
  simp only [exec, execFLen, putLength_eq]

theorem exec_fOut : exec .fOut s = .next (((s.setDigest (serialise s.h)).setDvalid true).setSeq seqEInit) := rfl

end Sys2Proof.Machine
end

