-- ==== Sys2Proof/Laws/Frame.lean ====
section
/-! SUPPORT. How a frame is shown: one equation per field, and the setters' simp lemmas do the rest. -/

namespace Sys2Proof.Machine

variable {s t : State}

@[simp] theorem same_h : Field.same .h s t ↔ t.h = s.h := Iff.rfl
@[simp] theorem same_buf : Field.same .buf s t ↔ t.buf = s.buf := Iff.rfl
@[simp] theorem same_buflen : Field.same .buflen s t ↔ t.buflen = s.buflen := Iff.rfl
@[simp] theorem same_nblk : Field.same .nblk s t ↔ t.nblk = s.nblk := Iff.rfl
@[simp] theorem same_work : Field.same .work s t ↔ t.work = s.work := Iff.rfl
@[simp] theorem same_w : Field.same .w s t ↔ t.w = s.w := Iff.rfl
@[simp] theorem same_lenbits : Field.same .lenbits s t ↔ t.lenbits = s.lenbits := Iff.rfl
@[simp] theorem same_seq : Field.same .seq s t ↔ t.seq = s.seq := Iff.rfl
@[simp] theorem same_xret : Field.same .xret s t ↔ t.xret = s.xret := Iff.rfl
@[simp] theorem same_cmdreg : Field.same .cmdreg s t ↔ t.cmdreg = s.cmdreg := Iff.rfl
@[simp] theorem same_digest : Field.same .digest s t ↔ t.digest = s.digest := Iff.rfl
@[simp] theorem same_dvalid : Field.same .dvalid s t ↔ t.dvalid = s.dvalid := Iff.rfl
@[simp] theorem same_faultFlag : Field.same .faultFlag s t ↔ t.faultFlag = s.faultFlag := Iff.rfl
@[simp] theorem same_pins : Field.same .pins s t ↔ t.pins = s.pins := Iff.rfl
@[simp] theorem same_free : Field.same .free s t ↔ t.free = s.free := Iff.rfl

/-- A frame, field by field: each field is listed or unchanged. -/
theorem onlyWrites_of {fields : List Field} (h : ∀ f : Field, f ∈ fields ∨ f.same s t) : OnlyWrites fields s t :=
  fun f hf => (h f).resolve_left hf

/-- A longer list of written fields says less. -/
theorem OnlyWrites.mono {fields more : List Field} (h : OnlyWrites fields s t) (hm : ∀ f ∈ fields, f ∈ more) :
    OnlyWrites more s t :=
  fun f hf => h f fun hin => hf (hm f hin)

/-- Frames compose. -/
theorem OnlyWrites.trans {fields : List Field} {u : State} (h : OnlyWrites fields s t) (h2 : OnlyWrites fields t u) :
    OnlyWrites fields s u := by
  intro f hf
  have a := h f hf
  have b := h2 f hf
  cases f <;> exact Eq.trans b a

theorem OnlyWrites.refl (fields : List Field) (s : State) : OnlyWrites fields s s := by
  intro f _; cases f <;> exact rfl

/-! ### A setter of a listed field stays inside the frame -/

variable {fields : List Field}

theorem OnlyWrites.setH (h : OnlyWrites fields s t) (x : HWords) (hm : Field.h ∈ fields) :
    OnlyWrites fields s (t.setH x) := by
  intro f hf; have hs := h f hf; cases f <;> first | exact absurd hm hf | exact hs

theorem OnlyWrites.setBuf (h : OnlyWrites fields s t) (x : List Host.Cell) (hm : Field.buf ∈ fields) :
    OnlyWrites fields s (t.setBuf x) := by
  intro f hf; have hs := h f hf; cases f <;> first | exact absurd hm hf | exact hs

theorem OnlyWrites.setBuflen (h : OnlyWrites fields s t) (x : BitVec 7) (hm : Field.buflen ∈ fields) :
    OnlyWrites fields s (t.setBuflen x) := by
  intro f hf; have hs := h f hf; cases f <;> first | exact absurd hm hf | exact hs

theorem OnlyWrites.setNblk (h : OnlyWrites fields s t) (x : DWord) (hm : Field.nblk ∈ fields) :
    OnlyWrites fields s (t.setNblk x) := by
  intro f hf; have hs := h f hf; cases f <;> first | exact absurd hm hf | exact hs

theorem OnlyWrites.setWork (h : OnlyWrites fields s t) (x : Working) (hm : Field.work ∈ fields) :
    OnlyWrites fields s (t.setWork x) := by
  intro f hf; have hs := h f hf; cases f <;> first | exact absurd hm hf | exact hs

theorem OnlyWrites.setW (h : OnlyWrites fields s t) (x : Vector Word 16) (hm : Field.w ∈ fields) :
    OnlyWrites fields s (t.setW x) := by
  intro f hf; have hs := h f hf; cases f <;> first | exact absurd hm hf | exact hs

theorem OnlyWrites.setLenbits (h : OnlyWrites fields s t) (x : DWord) (hm : Field.lenbits ∈ fields) :
    OnlyWrites fields s (t.setLenbits x) := by
  intro f hf; have hs := h f hf; cases f <;> first | exact absurd hm hf | exact hs

theorem OnlyWrites.setSeq (h : OnlyWrites fields s t) (x : Seq) (hm : Field.seq ∈ fields) :
    OnlyWrites fields s (t.setSeq x) := by
  intro f hf; have hs := h f hf; cases f <;> first | exact absurd hm hf | exact hs

theorem OnlyWrites.setXret (h : OnlyWrites fields s t) (x : XRet) (hm : Field.xret ∈ fields) :
    OnlyWrites fields s (t.setXret x) := by
  intro f hf; have hs := h f hf; cases f <;> first | exact absurd hm hf | exact hs

theorem OnlyWrites.setCmdreg (h : OnlyWrites fields s t) (x : BitVec 10) (hm : Field.cmdreg ∈ fields) :
    OnlyWrites fields s (t.setCmdreg x) := by
  intro f hf; have hs := h f hf; cases f <;> first | exact absurd hm hf | exact hs

theorem OnlyWrites.setDigest (h : OnlyWrites fields s t) (x : Vector Byte 20) (hm : Field.digest ∈ fields) :
    OnlyWrites fields s (t.setDigest x) := by
  intro f hf; have hs := h f hf; cases f <;> first | exact absurd hm hf | exact hs

theorem OnlyWrites.setDvalid (h : OnlyWrites fields s t) (x : Bool) (hm : Field.dvalid ∈ fields) :
    OnlyWrites fields s (t.setDvalid x) := by
  intro f hf; have hs := h f hf; cases f <;> first | exact absurd hm hf | exact hs

theorem OnlyWrites.setFault (h : OnlyWrites fields s t) (x : Bool) (hm : Field.faultFlag ∈ fields) :
    OnlyWrites fields s (t.setFault x) := by
  intro f hf; have hs := h f hf; cases f <;> first | exact absurd hm hf | exact hs

theorem OnlyWrites.setPins (h : OnlyWrites fields s t) (x : List Pins) (hm : Field.pins ∈ fields) :
    OnlyWrites fields s (t.setPins x) := by
  intro f hf; have hs := h f hf; cases f <;> first | exact absurd hm hf | exact hs

theorem OnlyWrites.setFree (h : OnlyWrites fields s t) (x : Nat) (hm : Field.free ∈ fields) :
    OnlyWrites fields s (t.setFree x) := by
  intro f hf; have hs := h f hf; cases f <;> first | exact absurd hm hf | exact hs

end Sys2Proof.Machine
end

