-- ==== Sys2Proof/Laws/Instances.lean ====
section
/-! SUPPORT. Several engines (spec/60_exceptions.md R172): their reset, and everything a step of one can do. -/

namespace Sys2Proof.Machine

variable {n : Nat}

@[simp] theorem resetEngines_get (n : Nat) (k : Fin n) : (resetEngines n)[k] = State.reset := by
  simp [resetEngines]

@[simp] theorem resetInstances_get (k : Fin Config.nInstances) : resetInstances[k] = State.reset :=
  resetEngines_get _ k

theorem nInstances_pos : 1 ≤ Config.nInstances := Nat.le_add_left ..

/-- A step of engine k answers a next state exactly when that engine's own step does, and replaces that engine alone. -/
theorem stepInstance_next_iff {k : Fin n} {es us : Engines n} :
    stepInstance k es = .next us ↔ ∃ t, step es[k] = .next t ∧ us = es.set k t := by
  unfold stepInstance
  cases step es[k] <;> simp [eq_comm]

theorem stepInstance_next {k : Fin n} {es : Engines n} {t : State} (h : step es[k] = .next t) :
    stepInstance k es = .next (es.set k t) :=
  stepInstance_next_iff.2 ⟨t, h, rfl⟩

theorem stepInstance_fault {k : Fin n} {es : Engines n} {e : Fault} (h : step es[k] = .fault e) :
    stepInstance k es = .fault e := by
  simp only [stepInstance, h]

theorem stepInstance_refused {k : Fin n} {es : Engines n} {r : Refusal} (h : step es[k] = .refused r) :
    stepInstance k es = .refused r := by
  simp only [stepInstance, h]

end Sys2Proof.Machine
end

