-- ==== Sys2Proof/Laws/Step.lean ====
section
/-! SUPPORT. What a step does, said once: hardware reset, an accepted command, or the micro-operation that SEQ names. -/

namespace Sys2Proof.Machine

/-- R76: the fields come back out of the packed word. -/
theorem seqFields_seqWord (a : BitVec 4) (b : BitVec 2) (c : BitVec 5) :
    seqUop (seqWord a b c) = a ∧ seqStage (seqWord a b c) = b ∧ seqR (seqWord a b c) = c := by
  revert a b c; decide +kernel

/-- The sequencer decodes the packed word of SEQ. -/
theorem decode_seq_word (q : Seq) : decode (.seq q.word) = decodeSeqFields q.uop q.stage q.r := by
  obtain ⟨x, y, z⟩ := seqFields_seqWord q.uop q.stage q.r
  simp only [decode, decodeSeq, Seq.word, x, y, z]

theorem sample_nil {s : State} (h : s.pins = []) : s.sample = Pins.quiet := by simp [State.sample, h]

theorem sample_cons {s : State} {p : Pins} {ps : List Pins} (h : s.pins = p :: ps) : s.sample = p := by
  simp [State.sample, h]

/-! ### The sampled pins are dropped, and nothing else -/

@[simp] theorem dropSample_h (s : State) : s.dropSample.h = s.h := rfl
@[simp] theorem dropSample_buf (s : State) : s.dropSample.buf = s.buf := rfl
@[simp] theorem dropSample_buflen (s : State) : s.dropSample.buflen = s.buflen := rfl
@[simp] theorem dropSample_nblk (s : State) : s.dropSample.nblk = s.nblk := rfl
@[simp] theorem dropSample_work (s : State) : s.dropSample.work = s.work := rfl
@[simp] theorem dropSample_w (s : State) : s.dropSample.w = s.w := rfl
@[simp] theorem dropSample_lenbits (s : State) : s.dropSample.lenbits = s.lenbits := rfl
@[simp] theorem dropSample_seq (s : State) : s.dropSample.seq = s.seq := rfl
@[simp] theorem dropSample_xret (s : State) : s.dropSample.xret = s.xret := rfl
@[simp] theorem dropSample_cmdreg (s : State) : s.dropSample.cmdreg = s.cmdreg := rfl
@[simp] theorem dropSample_digest (s : State) : s.dropSample.digest = s.digest := rfl
@[simp] theorem dropSample_dvalid (s : State) : s.dropSample.dvalid = s.dvalid := rfl
@[simp] theorem dropSample_faultFlag (s : State) : s.dropSample.faultFlag = s.faultFlag := rfl
@[simp] theorem dropSample_free (s : State) : s.dropSample.free = s.free := rfl
@[simp] theorem dropSample_pins (s : State) : s.dropSample.pins = s.pins.tail := rfl

/-- The micro-operation at SEQ = (IDLE,0,0). -/
theorem decodeSeqFields_idle : decodeSeqFields seqIdle.uop seqIdle.stage seqIdle.r = .ok .idle := rfl

theorem atBoundary_iff (s : State) : s.atBoundary = true ↔ s.seq = seqIdle := by simp [State.atBoundary]

/-- R181: a step that samples `rst = 1`. -/
theorem step_reset {s : State} (h : s.sample.rst = true) : step s = .next s.dropSample.hardwareReset := by
  simp [step, State.fetch, h]

/-- R75: a step that accepts a command. -/
theorem step_command {s : State} (h : s.sample.rst = false) (hs : s.seq = seqIdle) (hv : s.sample.cmdValid = true) :
    step s = exec (decodeCmd s.sample.cmd) s.dropSample := by
  have hb : s.atBoundary = true := (atBoundary_iff s).2 hs
  have hd : decodeSeqFields s.seq.uop s.seq.stage s.seq.r = .ok .idle := by rw [hs]; rfl
  simp [step, State.fetch, h, hd, hb, hv]

/-- R77: a step that runs the micro-operation SEQ names. -/
theorem step_micro {s : State} {i : Instr} (h : s.sample.rst = false)
    (hd : decodeSeqFields s.seq.uop s.seq.stage s.seq.r = .ok i)
    (hv : s.seq = seqIdle → s.sample.cmdValid = false) : step s = exec i s.dropSample := by
  simp only [step, State.fetch, h, hd]
  by_cases hs : s.seq = seqIdle
  · simp [hv hs]
  · have hb : s.atBoundary = false := by simp [State.atBoundary, hs]
    simp [hb]

/-- R79: a step at a reserved sequencer word. -/
theorem step_reserved {s : State} {e : DecodeError} (h : s.sample.rst = false)
    (hd : decodeSeqFields s.seq.uop s.seq.stage s.seq.r = .error e) : step s = .refused (.reservedSeq e) := by
  simp [step, State.fetch, h, hd]

/-- Everything that can lie behind a step that answers a next state. -/
theorem step_next_cases {s t : State} (h : step s = .next t) :
    (s.sample.rst = true ∧ t = s.dropSample.hardwareReset) ∨
    (s.sample.rst = false ∧ s.seq = seqIdle ∧ s.sample.cmdValid = true ∧
      exec (decodeCmd s.sample.cmd) s.dropSample = .next t) ∨
    (s.sample.rst = false ∧ (s.seq = seqIdle → s.sample.cmdValid = false) ∧
      ∃ i, decodeSeqFields s.seq.uop s.seq.stage s.seq.r = .ok i ∧ exec i s.dropSample = .next t) := by
  cases hr : s.sample.rst with
  | true =>
    rw [step_reset hr] at h
    cases h; exact .inl ⟨rfl, rfl⟩
  | false =>
    by_cases hc : s.seq = seqIdle ∧ s.sample.cmdValid = true
    · rw [step_command hr hc.1 hc.2] at h
      exact .inr (.inl ⟨rfl, hc.1, hc.2, h⟩)
    · have hv : s.seq = seqIdle → s.sample.cmdValid = false := fun hs => by
        cases hv : s.sample.cmdValid
        · rfl
        · exact absurd ⟨hs, hv⟩ hc
      cases hd : decodeSeqFields s.seq.uop s.seq.stage s.seq.r with
      | error e => rw [step_reserved hr hd] at h; cases h
      | ok i =>
        rw [step_micro hr hd hv] at h
        exact .inr (.inr ⟨rfl, hv, i, rfl, h⟩)

/-- R72: a command word decodes to one of the four commands. -/
theorem decodeCmd_cases (c : BitVec 10) :
    decodeCmd c = .nop (cmdData c) ∨ decodeCmd c = .update (cmdData c) ∨
      decodeCmd c = .finalize (cmdData c) ∨ decodeCmd c = .reset (cmdData c) := by
  unfold decodeCmd; split <;> simp

end Sys2Proof.Machine
end

