-- ==== Sys2Proof/Laws/Invariant.lean ====
section
/-! SUPPORT. The invariant, taken apart and put together: each position's condition as an equivalence, the flags at a
position inside a command, the written cells after an append, and the decoded sequencer word. -/

namespace Sys2Proof.Machine

variable {s : State}

/-! ### The positions, one equivalence each -/

/-- The condition at X.LOAD, at the rounds and at X.ADD. -/
def FullBlock (s : State) : Prop := s.buflen.toNat = 64 ∧ (s.xret = .upd → s.nblk.toNat < maxNblk.toNat)

theorem positionOk_idle : PositionOk .idle s ↔ s.buflen.toNat ≤ 63 ∧ (s.nblk = 0 → s.h = iv) := Iff.rfl
theorem positionOk_eInit : PositionOk .eInit s ↔ True := Iff.rfl
theorem positionOk_bAppend : PositionOk .bAppend s ↔
    s.buflen.toNat ≤ 63 ∧ (s.nblk = 0 → s.h = iv) ∧ s.lengthExhausted = false := Iff.rfl
theorem positionOk_bRetire : PositionOk .bRetire s ↔
    s.buflen.toNat = 64 ∧ s.xret = .upd ∧ s.nblk.toNat < maxNblk.toNat := Iff.rfl
theorem positionOk_xLoad : PositionOk .xLoad s ↔ FullBlock s := Iff.rfl
theorem positionOk_xRoundCh (r : BitVec 5) : PositionOk (.xRoundCh r) s ↔ FullBlock s := Iff.rfl
theorem positionOk_xRoundPar1 (r : BitVec 5) : PositionOk (.xRoundPar1 r) s ↔ FullBlock s := Iff.rfl
theorem positionOk_xRoundMaj (r : BitVec 5) : PositionOk (.xRoundMaj r) s ↔ FullBlock s := Iff.rfl
theorem positionOk_xRoundPar2 (r : BitVec 5) : PositionOk (.xRoundPar2 r) s ↔ FullBlock s := Iff.rfl
theorem positionOk_xAdd : PositionOk .xAdd s ↔ FullBlock s := Iff.rfl
theorem positionOk_fLatch : PositionOk .fLatch s ↔ s.buflen.toNat ≤ 63 := Iff.rfl
theorem positionOk_fTerm : PositionOk .fTerm s ↔ s.buflen.toNat ≤ 63 := Iff.rfl
theorem positionOk_fSpill : PositionOk .fSpill s ↔ s.buflen.toNat = 64 ∧ s.xret = .spill := Iff.rfl
theorem positionOk_fLen : PositionOk .fLen s ↔ s.buflen.toNat = 56 ∧ s.xret = .last := Iff.rfl
theorem positionOk_fOut : PositionOk .fOut s ↔ s.buflen.toNat = 64 ∧ s.xret = .last := Iff.rfl

theorem positionOk_fZero : PositionOk .fZero s ↔
    (s.xret = .spill ∧ 57 ≤ s.buflen.toNat ∧ s.buflen.toNat ≤ 63) ∨ (s.xret = .last ∧ s.buflen.toNat ≤ 55) := by
  simp only [PositionOk]
  cases s.xret <;> simp

/-- The transform's condition reads neither W nor A to E nor SEQ. -/
theorem FullBlock.setW (h : FullBlock s) (x : Vector Word 16) : FullBlock (s.setW x) := ⟨h.1, h.2⟩
theorem FullBlock.setWork (h : FullBlock s) (x : Working) : FullBlock (s.setWork x) := ⟨h.1, h.2⟩
theorem FullBlock.setSeq (h : FullBlock s) (x : Seq) : FullBlock (s.setSeq x) := ⟨h.1, h.2⟩

/-! ### The sequencer word -/

/-- R77: a sequencer word that decodes is the encoding of a well-formed micro-operation. -/
theorem decodeSeqFields_ok {q : Seq} {i : Instr} (h : decodeSeqFields q.uop q.stage q.r = .ok i) :
    encode i = .seq q.word ∧ i.wf = true := by
  have key : ∀ a b c, (match decodeSeqFields a b c with
      | .ok i => decide (encode i = .seq (seqWord a b c) ∧ i.wf = true)
      | .error _ => true) = true := by decide +kernel
  have := key q.uop q.stage q.r
  rw [h] at this
  exact of_decide_eq_true this

/-- A word that decodes to one micro-operation is not a word that decodes to another. -/
theorem seq_ne_of_decode {q p : Seq} {i : Instr} (h : decodeSeqFields q.uop q.stage q.r = .ok i)
    (hp : decodeSeqFields p.uop p.stage p.r ≠ .ok i) : q ≠ p :=
  fun e => hp (e ▸ h)

/-! ### Inside a command -/

/-- While a command is in progress FAULT is 0. -/
theorem Inv.fault_false (h : Inv s) (hs : s.seq ≠ seqIdle) : s.faultFlag = false := by
  cases hd : s.faultFlag with
  | false => rfl
  | true => exact absurd (h.faulted hd).1 hs

/-- While a command is in progress, but for the step of E.INIT, DVALID is 0. -/
theorem Inv.dvalid_false (h : Inv s) (he : s.seq ≠ seqEInit) (hs : s.seq ≠ seqIdle) : s.dvalid = false := by
  cases hd : s.dvalid with
  | false => rfl
  | true => rcases h.published hd with h | h
            · exact absurd h he
            · exact absurd h.1 hs

/-- The invariant does not read the pins. -/
theorem Inv.setPins (h : Inv s) (ps : List Pins) : Inv (s.setPins ps) :=
  ⟨h.1, h.2, h.3, h.4, h.5, h.6, h.7⟩

/-- The invariant from its parts at a state whose flags are both 0. -/
theorem Inv.of_clear_flags (hm : Memory.wf s.buf = true) (hw : ∀ k, k < s.buflen.toNat → (s.cell k).isSome = true)
    (hb : s.buflen.toNat ≤ 64) (hn : s.nblk.toNat ≤ maxNblk.toNat) (hf : s.faultFlag = false) (hd : s.dvalid = false)
    {i : Instr} (hi : decodeSeqFields s.seq.uop s.seq.stage s.seq.r = .ok i) (hp : PositionOk i s) : Inv s :=
  ⟨hm, hw, hb, hn, fun h => absurd (hf.symm.trans h) (by decide), fun h => absurd (hd.symm.trans h) (by decide),
    ⟨i, hi, hp⟩⟩

/-- The registers of the transform and SEQ do not enter the invariant but through the position. -/
theorem Inv.afterRound (h : Inv s) (hf : s.faultFlag = false) (hd : s.dvalid = false) {w : Vector Word 16}
    {x : Working} {q : Seq} {i : Instr} (hi : decodeSeqFields q.uop q.stage q.r = .ok i)
    (hp : PositionOk i (((s.setW w).setWork x).setSeq q)) : Inv (((s.setW w).setWork x).setSeq q) :=
  Inv.of_clear_flags h.canonical h.written h.buflenBound h.nblkBound hf hd hi hp

/-- R39: after an append every cell below the new BUFLEN is written. -/
theorem written_append {b : Byte} (hw : ∀ k, k < s.buflen.toNat → (s.cell k).isSome = true) (hb : s.buflen.toNat ≤ 63) :
    ∀ k, k < (s.buflen + 1).toNat →
      (Memory.lookup (Memory.insert s.buf s.buflen.toNat b) k).isSome = true := by
  intro k hk
  rw [buflen_succ hb] at hk
  rw [lookup_append]
  by_cases h : k = s.buflen.toNat
  · simp [h]
  · simp only [h, if_false]; exact hw k (by omega)

/-- An append keeps the canonical form. -/
theorem wf_append (b : Byte) (h : Memory.wf s.buf = true) (hb : s.buflen.toNat ≤ 63) :
    Memory.wf (Memory.insert s.buf s.buflen.toNat b) = true :=
  wf_insert b h (by simp only [blockBytes]; omega)

end Sys2Proof.Machine
end

