-- ==== Sys2Proof/Laws/PerInstr.lean ====
section
/-! SUPPORT. Statements about the instruction as syntax, one lemma per constructor. EncodesToItsRow: the encoder gives an
instruction the format, the match bits and the operand bits of its own row of spec/30_encoding.md R72 and R77. -/

namespace Sys2Proof.Laws.EncodesToItsRow

/- One theorem after another: see Tests/Slice0.lean. -/
set_option Elab.async false

/-- The code word as 11 bits beside its format. -/
def codeBits : CodeWord → Format × BitVec 11
  | .cmd w => (.cmd, w.setWidth 11)
  | .seq w => (.seq, w)

/-- The encoded word selects the row of the instruction's mnemonic, in the instruction's format. -/
def holds (i : Instr) : Bool :=
  (codeBits (encode i)).1 = i.format &&
    opcodeTable.any fun x => x.selects i.format (codeBits (encode i)).2 && x.mnemonic = i.mnemonic

/-- R72, R77: every instruction, the ill-formed rounds too, is encoded into its own row. -/
def Statement (i : Instr) : Prop := holds i = true

theorem nop (d : Byte) : Statement (.nop d) := by revert d; unfold Statement; decide +kernel
theorem update (d : Byte) : Statement (.update d) := by revert d; unfold Statement; decide +kernel
theorem finalize (d : Byte) : Statement (.finalize d) := by revert d; unfold Statement; decide +kernel
theorem reset (d : Byte) : Statement (.reset d) := by revert d; unfold Statement; decide +kernel
theorem idle : Statement .idle := by unfold Statement; decide +kernel
theorem eInit : Statement .eInit := by unfold Statement; decide +kernel
theorem bAppend : Statement .bAppend := by unfold Statement; decide +kernel
theorem bRetire : Statement .bRetire := by unfold Statement; decide +kernel
theorem xLoad : Statement .xLoad := by unfold Statement; decide +kernel
theorem xRoundCh (r : BitVec 5) : Statement (.xRoundCh r) := by revert r; unfold Statement; decide +kernel
theorem xRoundPar1 (r : BitVec 5) : Statement (.xRoundPar1 r) := by revert r; unfold Statement; decide +kernel
theorem xRoundMaj (r : BitVec 5) : Statement (.xRoundMaj r) := by revert r; unfold Statement; decide +kernel
theorem xRoundPar2 (r : BitVec 5) : Statement (.xRoundPar2 r) := by revert r; unfold Statement; decide +kernel
theorem xAdd : Statement .xAdd := by unfold Statement; decide +kernel
theorem fLatch : Statement .fLatch := by unfold Statement; decide +kernel
theorem fTerm : Statement .fTerm := by unfold Statement; decide +kernel
theorem fZero : Statement .fZero := by unfold Statement; decide +kernel
theorem fSpill : Statement .fSpill := by unfold Statement; decide +kernel
theorem fLen : Statement .fLen := by unfold Statement; decide +kernel
theorem fOut : Statement .fOut := by unfold Statement; decide +kernel

end Sys2Proof.Laws.EncodesToItsRow
end

