-- ==== Sys2Proof/Laws/Run.lean ====
section
/-! SUPPORT. What a run does, said once for each case: ready, one more step, ended by a hardware reset
(spec/70_reset_and_hazards.md R184, R196). -/

namespace Sys2Proof.Machine

variable {s t u : State}

/-! ### Readiness -/

theorem cmdReady_iff (s : State) : s.cmdReady = true ↔ s.seq.uop = 0 ∧ s.sample.rst = false := by
  simp [State.cmdReady]

theorem cmdReady_of_reset (h : s.sample.rst = true) : s.cmdReady = false := by simp [State.cmdReady, h]

theorem cmdReady_of_busy (h : s.seq.uop ≠ 0) : s.cmdReady = false :=
  Bool.eq_false_iff.2 fun hc => h ((cmdReady_iff s).1 hc).1

/-- A command boundary where the host drives nothing is ready. -/
theorem cmdReady_of_quiet (h : s.seq = seqIdle) (hp : s.pins = []) : s.cmdReady = true := by
  rw [cmdReady_iff, h, sample_nil hp]; exact ⟨rfl, rfl⟩

/-! ### Waiting for readiness -/

theorem toBoundary_ready (n : Nat) (h : s.cmdReady = true) : toBoundary n s = .next (.ready s) := by
  cases n <;> simp [toBoundary, h]

theorem toBoundary_step (n : Nat) (h : s.cmdReady = false) (hr : s.sample.rst = false) (hs : step s = .next t) :
    toBoundary (n + 1) s = toBoundary n t := by
  simp [toBoundary, h, hs, hr]

theorem toBoundary_aborted (n : Nat) (hr : s.sample.rst = true) (hs : step s = .next t) :
    toBoundary (n + 1) s = .next (.reset t) := by
  simp [toBoundary, cmdReady_of_reset hr, hs, hr]

/-! ### Presenting a word -/

@[simp] theorem present_sample_rst (c : BitVec 10) (s : State) : (s.present c).sample.rst = s.sample.rst := rfl
@[simp] theorem present_sample_cmdValid (c : BitVec 10) (s : State) : (s.present c).sample.cmdValid = true := rfl
@[simp] theorem present_sample_cmd (c : BitVec 10) (s : State) : (s.present c).sample.cmd = c := rfl
@[simp] theorem present_seq (c : BitVec 10) (s : State) : (s.present c).seq = s.seq := rfl
@[simp] theorem dropSample_present (c : BitVec 10) (s : State) : (s.present c).dropSample = s.dropSample := rfl

/-- At a ready command boundary the word is accepted at once. -/
theorem runWord_accept (c : BitVec 10) (h : s.cmdReady = true) (hs : s.seq = seqIdle)
    (he : exec (decodeCmd c) s.dropSample = .next t) : runWord c s = toBoundary runFuel t := by
  have hr := ((cmdReady_iff s).1 h).2
  have hst : step (s.present c) = .next t := by
    rw [step_command (s := s.present c) hr hs rfl]; exact he
  simp only [runWord, toBoundary_ready runFuel h, hst]

/-! ### Programs -/

theorem runWords_nil (s : State) : runWords [] s = .next { final := .ready s, shown := [] } := rfl

theorem runWords_cons_ready {c : BitVec 10} {cs : List (BitVec 10)} {r : Run} (h : runWord c s = .next (.ready t))
    (hr : runWords cs t = .next r) :
    runWords (c :: cs) s = .next { r with shown := t.observe :: r.shown } := by
  simp only [runWords, h, hr]

/-- R196: a hardware reset ends the run, and no further word is presented. -/
theorem runWords_cons_reset {c : BitVec 10} (cs : List (BitVec 10)) (h : runWord c s = .next (.reset t)) :
    runWords (c :: cs) s = .next { final := .reset t, shown := [] } := by
  simp only [runWords, h]

end Sys2Proof.Machine
end

