-- ==== Sys2Proof/Laws/Transform.lean ====
section
/-! SUPPORT. The transform's rounds beside the loop of spec/42_block_transform.md R131: what one round does to every
field, and that it is one pass of the loop. -/

namespace Sys2Proof.Machine

variable {s t u : State}

/-! ### Runs -/

theorem stepsTo_one (h : step s = .next t) : stepsTo 1 s t := ⟨t, h, rfl⟩

theorem stepsTo_add {m n : Nat} (h : stepsTo m s t) (h2 : stepsTo n t u) : stepsTo (m + n) s u := by
  induction m generalizing s with
  | zero => cases h; simpa using h2
  | succ m ih =>
    obtain ⟨v, hv, hm⟩ := h
    rw [Nat.succ_add]
    exact ⟨v, hv, ih hm⟩

/-! ### Pins that never assert reset -/

theorem State.noReset.sample (h : s.noReset) : s.sample.rst = false := by
  cases hp : s.pins with
  | nil => rw [sample_nil hp]; rfl
  | cons p ps => rw [sample_cons hp]; exact h p (by rw [hp]; exact List.mem_cons_self ..)

theorem State.noReset.tail (h : s.noReset) : ∀ p ∈ s.pins.tail, p.rst = false :=
  fun p hp => h p (List.mem_of_mem_tail hp)

theorem onlyWrites_dropSample {fields : List Field} (h : Field.pins ∈ fields) : OnlyWrites fields s s.dropSample :=
  (OnlyWrites.refl _ s).setPins _ h

/-! ### One round -/

section RoundBody

variable (stage : BitVec 2) (f : Word → Word → Word → Word) (k : Word) (r : BitVec 5) (s : State)

theorem roundBody_w : (s.roundBody stage f k r).w = scheduleStep (roundIndex stage r) s.w := by simp [roundBody_eq]
theorem roundBody_work : (s.roundBody stage f k r).work =
    roundWork (f s.work.b s.work.c s.work.d) k (roundWord s.w (roundIndex stage r)) s.work := by simp [roundBody_eq]
theorem roundBody_seq : (s.roundBody stage f k r).seq = roundSuccessor stage r := by simp [roundBody_eq]

theorem roundBody_onlyWrites : OnlyWrites [.work, .w, .seq] s (s.roundBody stage f k r) := by
  rw [roundBody_eq]
  exact (((OnlyWrites.refl _ s).setW _ (by decide)).setWork _ (by decide)).setSeq _ (by decide)

/-- R121 beside R131: the schedule of one pass. -/
theorem transformRound_fst (x : Vector Word 16 × Working) (t : Nat) : (transformRound x t).1 = scheduleStep t x.1 := by
  simp only [transformRound, scheduleStep, slot_mod]

theorem transformRound_snd (x : Vector Word 16 × Working) (t : Nat) :
    (transformRound x t).2 = mixRound t (roundWord x.1 t) x.2 := by
  rw [← slot_scheduleStep_self, ← transformRound_fst]
  simp only [transformRound, slot_mod]

/-- R126 beside R131: the sum of one pass. -/
theorem roundWork_eq_mixRound (n : Nat) (wj : Word) (x : Working) :
    roundWork (stageF (n / 20) x.b x.c x.d) (stageK (n / 20)) wj x = mixRound n wj x := rfl

end RoundBody

/-- Where the sequencer stands before round n of a transform, and after the last. -/
def roundSeq (n : Nat) : Seq :=
  if n < 80 then seqXRound (BitVec.ofNat 2 (n / 20)) (BitVec.ofNat 5 (n % 20)) else seqXAdd

/-- R77, R78, R121: the stage and the round operand of round n, and its successor. -/
theorem roundSeq_fields {n : Nat} (hn : n < 80) : ∃ (st : BitVec 2) (r : BitVec 5),
    roundSeq n = seqXRound st r ∧ roundIndex st r = n ∧ st.toNat = n / 20 ∧ roundLegal r = true ∧
      roundSuccessor st r = roundSeq (n + 1) ∧
      decodeSeqFields (roundSeq n).uop (roundSeq n).stage (roundSeq n).r = .ok (decodeRound st r) := by
  refine ⟨BitVec.ofNat 2 (n / 20), BitVec.ofNat 5 (n % 20), ?_⟩
  revert n; decide +kernel

/-- R122 to R125: the four variants are the round body with R131's f and k of their stage. -/
theorem exec_decodeRound (st : BitVec 2) {r : BitVec 5} (hl : roundLegal r = true) (s : State) :
    exec (decodeRound st r) s = .next (s.roundBody st (stageF st.toNat) (stageK st.toNat) r) := by
  have : st = 0 ∨ st = 1 ∨ st = 2 ∨ st = 3 := by revert st; decide
  rcases this with rfl | rfl | rfl | rfl
  · exact exec_xRoundCh hl
  · exact exec_xRoundPar1 hl
  · exact exec_xRoundMaj hl
  · exact exec_xRoundPar2 hl

theorem seqXRound_ne_idle (st : BitVec 2) (r : BitVec 5) : seqXRound st r ≠ seqIdle :=
  fun h => absurd (show (5 : BitVec 4) = 0 from congrArg Seq.uop h) (by decide)

/-- What one step does at round n: one pass of R131's loop, and the next position (R78). -/
theorem step_round {n : Nat} (hn : n < 80) (hs : s.seq = roundSeq n) (hr : s.sample.rst = false) :
    ∃ u, step s = .next u ∧ (u.w, u.work) = transformRound (s.w, s.work) n ∧ u.seq = roundSeq (n + 1) ∧
      OnlyWrites [.work, .w, .seq, .pins] s u ∧ u.pins = s.pins.tail := by
  obtain ⟨st, r, hq, hi, hn, hl, hsucc, hd⟩ := roundSeq_fields hn
  rw [← hs] at hd
  have hst := step_micro hr hd fun h => absurd (hq.symm.trans (hs.symm.trans h)) (seqXRound_ne_idle st r)
  rw [exec_decodeRound st hl, hn] at hst
  have hw := roundBody_w st (stageF (n / 20)) (stageK (n / 20)) r s.dropSample
  have hk := roundBody_work st (stageF (n / 20)) (stageK (n / 20)) r s.dropSample
  have hp := roundBody_seq st (stageF (n / 20)) (stageK (n / 20)) r s.dropSample
  have ho := roundBody_onlyWrites st (stageF (n / 20)) (stageK (n / 20)) r s.dropSample
  obtain ⟨u, hu⟩ : ∃ u, s.dropSample.roundBody st (stageF (n / 20)) (stageK (n / 20)) r = u := ⟨_, rfl⟩
  rw [hu] at hst hw hk hp ho
  rw [hi] at hw hk
  refine ⟨u, hst, ?_, hp.trans hsucc, (onlyWrites_dropSample (by decide)).trans (ho.mono (by decide)),
    ho .pins (by decide)⟩
  rw [hw, hk, roundWork_eq_mixRound, dropSample_w, dropSample_work]
  exact Prod.ext (transformRound_fst (s.w, s.work) n).symm (transformRound_snd (s.w, s.work) n).symm


/-! ### All the rounds -/

theorem State.noReset.of_tail (h : s.noReset) (hp : u.pins = s.pins.tail) : u.noReset :=
  fun p hp' => h.tail p (hp ▸ hp')

/-- R131: the rounds from n on run the rest of the loop and end at X.ADD. -/
theorem stepsTo_rounds (m : Nat) : ∀ (n : Nat) (s : State), n + m = 80 → s.seq = roundSeq n → s.noReset →
    ∃ t, stepsTo m s t ∧ (t.w, t.work) = (List.range' n m).foldl transformRound (s.w, s.work) ∧ t.seq = seqXAdd ∧
      OnlyWrites [.work, .w, .seq, .pins] s t ∧ t.noReset := by
  induction m with
  | zero =>
    intro n s hn hs hr
    obtain rfl : n = 80 := by omega
    exact ⟨s, rfl, rfl, hs, OnlyWrites.refl _ s, hr⟩
  | succ m ih =>
    intro n s hn hs hr
    obtain ⟨u, hu, hx, hq, ho, hp⟩ := step_round (by omega : n < 80) hs hr.sample
    obtain ⟨t, ht, htx, htq, hto, htr⟩ := ih (n + 1) u (by omega) hq (hr.of_tail hp)
    exact ⟨t, ⟨u, hu, ht⟩, by rw [htx, hx]; rfl, htq, ho.trans hto, htr⟩

/-- R52, R82: X.LOAD's words are the words of the block it reads. -/
theorem loadBlock_eq (s : State) : s.loadBlock = Vector.ofFn fun j : Fin 16 => blockWord s.block j.val := by
  apply Vector.ext
  intro i hi
  have g : ∀ k, k < 64 → (List.map s.loadByte (List.range 64)).getD k 0 = s.loadByte k := fun k hk => by
    simp [List.getD, hk]
  simp only [State.loadBlock, Vector.getElem_ofFn, State.memRead4, blockWord, State.block]
  rw [g _ (by omega), g _ (by omega), g _ (by omega), g _ (by omega)]

end Sys2Proof.Machine
end

