-- ==== Sys2Proof/Tests/Slice0.lean ====
section
/-! SUPPORT. Tests. Expected values come from spec/95_test_vectors.md (V<n>) or are worked by hand from the rule named;
and for every statement that has hypotheses, a witness that meets them. -/

namespace Sys2Proof.Tests

open Sys2Proof Sys2Proof.Machine

/- One theorem after another: the many kernel evaluations of this file, run at once, need more threads than the check's
memory limit allows. -/
set_option Elab.async false

/-! ### Helpers -/

/-- A field of the next state; none where the machine stops. -/
def after {α : Type} (o : Host.Outcome State Fault Refusal) (f : State → α) : Option α :=
  match o with
  | .next t => some (f t)
  | .fault _ => none
  | .refused _ => none

/-- The first n cells of BUF, all holding 0x61. -/
def letters (n : Nat) : List Host.Cell := (List.range n).map fun k => (k, 0x61#8)

/-- n bytes 0x61 pending, the sequencer at q. -/
def pending (n : Nat) (q : Seq) : State :=
  ((State.reset.setBuf (letters n)).setBuflen (BitVec.ofNat 7 n)).setSeq q

/-- The registers A to E. -/
def workOf (a b c d e : Word) : Working := { a := a, b := b, c := c, d := d, e := e }

/-- The schedule of the "abc" block after X.LOAD (V20). -/
def abcSchedule : Vector Word 16 := (setSlot (setSlot (Vector.replicate 16 0) 0 0x61626380) 15 0x00000018)

/-- The cells of the "abc" block (V24). -/
def abcCells : List Host.Cell :=
  [(0, 0x61#8), (1, 0x62#8), (2, 0x63#8), (3, 0x80#8)] ++ (List.range 59).map (fun k => (4 + k, 0x00#8)) ++ [(63, 0x18#8)]

/-- NBLK = MAX_NBLK with n bytes 0x61 pending: the start states of V26. -/
def longMessage (n : Nat) : State := (pending n seqIdle).setNblk 0x007FFFFFFFFFFFFF#64

/-- The fault state of V26. -/
def faultedState : State := (longMessage 63).setFault true

/-- The state after a FINALIZE: the initial lifecycle point with a digest offered. -/
def finalised : State := State.reset.setDvalid true

/-! ### Well-formedness: each check refuses an ill-formed term (R77, R79) -/

theorem test_wf_refuses_round_ch : (Instr.xRoundCh 20#5).wf = false := by decide
theorem test_wf_refuses_round_par1 : (Instr.xRoundPar1 20#5).wf = false := by decide
theorem test_wf_refuses_round_maj : (Instr.xRoundMaj 31#5).wf = false := by decide
theorem test_wf_refuses_round_par2 : (Instr.xRoundPar2 20#5).wf = false := by decide
theorem test_wf_takes_last_round : (Instr.xRoundPar2 19#5).wf = true := by decide

/-! ### Decoding: words written out from R72 and R77; the SEQ words of V20 and P1 -/

theorem test_decode_commands :
    decode (.cmd 0b0000000000#10) = .ok (.nop 0x00#8) ∧ decode (.cmd 0b0101100001#10) = .ok (.update 0x61#8) ∧
    decode (.cmd 0b1000000000#10) = .ok (.finalize 0x00#8) ∧ decode (.cmd 0b1111111111#10) = .ok (.reset 0xFF#8) := by
  decide
theorem test_decode_engine_and_buffer :
    decode (.seq 0b00000000000#11) = .ok .idle ∧ decode (.seq 0b00010000000#11) = .ok .eInit ∧
    decode (.seq 0b00100000000#11) = .ok .bAppend ∧ decode (.seq 0b00110000000#11) = .ok .bRetire := by decide
theorem test_decode_transform :
    decode (.seq 0b01000000000#11) = .ok .xLoad ∧ decode (.seq 0b01010010011#11) = .ok (.xRoundCh 19#5) ∧
    decode (.seq 0b01010101011#11) = .ok (.xRoundPar1 11#5) ∧ decode (.seq 0b01011000000#11) = .ok (.xRoundMaj 0#5) ∧
    decode (.seq 0b01011110011#11) = .ok (.xRoundPar2 19#5) ∧ decode (.seq 0b01100000000#11) = .ok .xAdd := by decide
theorem test_decode_finalize :
    decode (.seq 0b01110000000#11) = .ok .fLatch ∧ decode (.seq 0b10000000000#11) = .ok .fTerm ∧
    decode (.seq 0b10010000000#11) = .ok .fZero ∧ decode (.seq 0b10100000000#11) = .ok .fSpill ∧
    decode (.seq 0b10110000000#11) = .ok .fLen ∧ decode (.seq 0b11000000000#11) = .ok .fOut := by decide
theorem test_decode_reserved :
    decode (.seq 0x680#11) = .error (.reservedUop 0b1101#4) ∧
    decode (.seq 0x081#11) = .error (.reservedStageRound 0#2 1#5) ∧
    decode (.seq 0x294#11) = .error (.reservedRound 0#2 20#5) := by decide

/-- One row of each family as a table word, in its own width. -/
theorem test_table_words :
    decodeTableWord 10 0x161 = some (.update 0x61#8) ∧ decodeTableWord 10 0x200 = some (.finalize 0#8) ∧
    decodeTableWord 11 0x200 = some .xLoad ∧ decodeTableWord 11 0x2B3 = some (.xRoundPar1 19#5) ∧
    decodeTableWord 11 0x680 = none ∧ decodeTableWord 16 0x2E0 = some (.xRoundPar2 0#5) := by decide

/-- A placed word is run by the very next step. -/
theorem test_fetch_word_runs_command :
    after (step (State.reset.withFetchWord 10 0x163)) (fun t => (t.cmdreg, t.seq)) = some (0x163#10, seqBAppend) := by
  decide
theorem test_fetch_word_runs_micro :
    after (step (State.reset.withFetchWord 11 0x080)) (fun t => (t.h, t.seq)) = some (iv, seqIdle) := by decide

/-! ### Word operators (V10) and round functions (V11) -/

theorem test_rotations :
    rotl 1 0x61626380 = 0xC2C4C700 ∧ rotl 5 0x67452301 = 0xE8A4602C ∧ rotl 30 0xEFCDAB89 = 0x7BF36AE2 ∧
    rotl 30 0x00000004 = 0x00000001 := by decide
theorem test_byte_order :
    be32 0xA9993E36 = [0xA9, 0x99, 0x3E, 0x36] ∧ wordBE 0x61 0x62 0x63 0x80 = 0x61626380 ∧
    be64 0x0000000100000000 = [0, 0, 0, 1, 0, 0, 0, 0] := by decide
theorem test_round_functions :
    fCh 0xF0F0F0F0 0xCCCCCCCC 0xAAAAAAAA = 0xCACACACA ∧ fPar 0xF0F0F0F0 0xCCCCCCCC 0xAAAAAAAA = 0x96969696 ∧
    fMaj 0xF0F0F0F0 0xCCCCCCCC 0xAAAAAAAA = 0xE8E8E8E8 := by decide

/-! ### One step of each instruction -/

/-- V22: NOP with data 0xAB. -/
theorem test_nop : after (exec (.nop 0xAB) finalised) (fun t => (t.cmdreg, t.dvalid, t.seq)) =
    some (0x0AB#10, true, seqIdle) := by decide
/-- V22: RESET with data 0xFF in the fault state. -/
theorem test_reset : after (exec (.reset 0xFF) faultedState) (fun t => (t.cmdreg, t.dvalid, t.faultFlag, t.seq)) =
    some (0x3FF#10, false, false, seqEInit) := by decide
/-- V21: an UPDATE withdraws the digest. -/
theorem test_update : after (exec (.update 0x00) finalised) (fun t => (t.cmdreg, t.dvalid, t.seq)) =
    some (0x100#10, false, seqBAppend) := by decide
/-- V26: LEN_FAULT at (2^55 − 1, 63), and not at (2^55 − 1, 62). -/
theorem test_update_length_fault :
    after (exec (.update 0x22) (longMessage 63)) (fun t => (t.faultFlag, t.buflen, t.seq)) = some (true, 63#7, seqIdle) ∧
    after (exec (.update 0x11) (longMessage 62)) (fun t => (t.faultFlag, t.seq)) = some (false, seqBAppend) := by decide
/-- V27: FINALIZE goes to F.LATCH with DVALID cleared. -/
theorem test_finalize : after (exec (.finalize 0) finalised) (fun t => (t.cmdreg, t.dvalid, t.seq)) =
    some (0x200#10, false, seqFLatch) := by decide
/-- V26: FINALIZE is ignored while FAULT = 1. -/
theorem test_finalize_ignored : after (exec (.finalize 0) faultedState) (fun t => (t.faultFlag, t.seq)) =
    some (true, seqIdle) := by decide
/-- R78: IDLE stays. -/
theorem test_idle : after (exec .idle State.reset) (fun t => t.seq) = some seqIdle := by decide
/-- R102's example: (BUFLEN = 37, NBLK = 5) to the initial point. -/
theorem test_e_init :
    after (exec .eInit (((pending 37 seqEInit).setNblk 5).setH { h0 := 1, h1 := 2, h2 := 3, h3 := 4, h4 := 5 }))
      (fun t => (t.h, t.buflen, t.nblk, t.seq)) = some (iv, 0#7, 0#64, seqIdle) := by decide
/-- R111's example: BUFLEN = 63, CMDREG = 0x161. -/
theorem test_b_append_fills :
    after (exec .bAppend ((pending 63 seqBAppend).setCmdreg 0x162)) (fun t => (t.cell 63, t.buflen, t.xret, t.seq)) =
      some (some 0x62#8, 64#7, .upd, seqXLoad) := by decide +kernel
/-- V21: the byte lands at BUF[62] and no transform starts. -/
theorem test_b_append_room :
    after (exec .bAppend ((pending 62 seqBAppend).setCmdreg 0x1FF)) (fun t => (t.cell 62, t.cell 61, t.buflen, t.seq)) =
      some (some 0xFF#8, some 0x61#8, 63#7, seqIdle) := by decide +kernel
/-- R112's example: NBLK 0, BUFLEN 64. -/
theorem test_b_retire : after (exec .bRetire (pending 64 seqBRetire)) (fun t => (t.nblk, t.buflen, t.seq)) =
    some (1#64, 0#7, seqIdle) := by decide
/-- R120's example, V13: the "abc" block. -/
theorem test_x_load :
    after (exec .xLoad ((State.reset.setBuf abcCells).setBuflen 64))
      (fun t => (slot t.w 0, slot t.w 1, slot t.w 15, t.work, t.seq)) =
      some (0x61626380, 0, 0x18, workOf 0x67452301 0xEFCDAB89 0x98BADCFE 0x10325476 0xC3D2E1F0, seqXRound 0 0) := by
  decide +kernel
/-- V14: t = 0. -/
theorem test_x_round_ch :
    after (exec (.xRoundCh 0) ((State.reset.setW abcSchedule).setWork
      (workOf 0x67452301 0xEFCDAB89 0x98BADCFE 0x10325476 0xC3D2E1F0))) (fun t => (t.work, t.seq)) =
      some (workOf 0x0116FC33 0x67452301 0x7BF36AE2 0x98BADCFE 0x10325476, seqXRound 0 1) := by decide +kernel
/-- V12, V14: t = 16, the first schedule step. -/
theorem test_x_round_ch_schedule :
    after (exec (.xRoundCh 16) ((State.reset.setW abcSchedule).setWork
      (workOf 0x20BDD62F 0x196BEE77 0x644A3DA5 0x1181ED99 0x18C623F9))) (fun t => (slot t.w 0, t.work)) =
      some (0xC2C4C700, workOf 0x4E925823 0x20BDD62F 0xC65AFB9D 0x644A3DA5 0x1181ED99) := by decide +kernel
/-- V14: t = 20, with W[4] = 0 after its schedule step. -/
theorem test_x_round_par1 :
    after (exec (.xRoundPar1 0) (State.reset.setWork
      (workOf 0xFD9E1D7D 0xDC64901D 0x20AA99CA 0xD3A49608 0xC82F758B))) (fun t => (t.work, t.seq)) =
      some (workOf 0x1A37B0CA 0xFD9E1D7D 0x77192407 0x20AA99CA 0xD3A49608, seqXRound 1 1) := by decide +kernel
/-- V14: t = 59; W[11] is set so that its schedule step gives 0x44584CB7. -/
theorem test_x_round_maj :
    after (exec (.xRoundMaj 19) ((State.reset.setW (setSlot (Vector.replicate 16 0) 11 0xA22C265B)).setWork
      (workOf 0x09D785FD 0xD262FF50 0xF211824F 0xD79915AB 0x5EDC7DDB))) (fun t => (slot t.w 11, t.work, t.seq)) =
      some (0x44584CB7, workOf 0x3F52DE5A 0x09D785FD 0x3498BFD4 0xF211824F 0xD79915AB, seqXRound 3 0) := by
  decide +kernel
/-- V14: t = 79, the last round; W[15] is set so that its schedule step gives 0x822E0879. -/
theorem test_x_round_par2 :
    after (exec (.xRoundPar2 19) ((State.reset.setW (setSlot (Vector.replicate 16 0) 15 0xC117043C)).setWork
      (workOf 0x5738D5E1 0x860D21CC 0x681E6DF6 0xD8FDF6AD 0xD7B9DA25))) (fun t => (t.work, t.seq)) =
      some (workOf 0x42541B35 0x5738D5E1 0x21834873 0x681E6DF6 0xD8FDF6AD, seqXAdd) := by decide +kernel
/-- V12's stand-alone schedule step: the top bit re-enters at bit 0. -/
theorem test_schedule_wraps :
    slot (scheduleStep 16 (setSlot (setSlot (setSlot (setSlot (Vector.replicate 16 0) 13 0x80000000) 8 0x00000001) 2
      0x0000FFFF) 0 0xFFFF0000)) 0 = 0xFFFFFFFC := by decide +kernel
/-- V15, second row: every carry is dropped; XRET = LAST goes to F.OUT. -/
theorem test_x_add :
    after (exec .xAdd (((State.reset.setH { h0 := 0xFFFFFFFF, h1 := 0xFFFFFFFF, h2 := 0, h3 := 0x80000000, h4 := 1 }).setWork
      (workOf 0x00000001 0xFFFFFFFF 0 0x80000000 0xFFFFFFFF)).setXret .last)) (fun t => (t.h, t.seq)) =
      some ({ h0 := 0, h1 := 0xFFFFFFFE, h2 := 0, h3 := 0, h4 := 0 }, seqFOut) := by decide
/-- V23: the longest message. -/
theorem test_f_latch : after (exec .fLatch (longMessage 63)) (fun t => (t.lenbits, t.seq)) =
    some (0xFFFFFFFFFFFFFFF8#64, seqFTerm) := by decide
/-- V23: p = 55 and p = 56. -/
theorem test_f_term_at_the_pad_point :
    after (exec .fTerm (pending 55 seqFTerm)) (fun t => (t.cell 55, t.buflen, t.xret, t.seq)) =
      some (some 0x80#8, 56#7, .last, seqFLen) ∧
    after (exec .fTerm (pending 56 seqFTerm)) (fun t => (t.cell 56, t.buflen, t.xret, t.seq)) =
      some (some 0x80#8, 57#7, .spill, seqFZero) := by decide +kernel
/-- V23: p = 63. -/
theorem test_f_term_fills : after (exec .fTerm (pending 63 seqFTerm)) (fun t => (t.cell 63, t.buflen, t.xret, t.seq)) =
    some (some 0x80#8, 64#7, .spill, seqXLoad) := by decide +kernel
/-- R143: the last zero before the length, and the last zero of a spill block. -/
theorem test_f_zero :
    after (exec .fZero ((pending 55 seqFZero).setXret .last)) (fun t => (t.cell 55, t.buflen, t.seq)) =
      some (some 0x00#8, 56#7, seqFLen) ∧
    after (exec .fZero ((pending 63 seqFZero).setXret .spill)) (fun t => (t.cell 63, t.buflen, t.seq)) =
      some (some 0x00#8, 64#7, seqXLoad) := by decide +kernel
/-- R144's example. -/
theorem test_f_spill :
    after (exec .fSpill ((pending 64 seqFSpill).setXret .spill)) (fun t => (t.buflen, t.xret, t.nblk, t.seq)) =
      some (0#7, .last, 0#64, seqFZero) := by decide
/-- R145's example: LENBITS = 0x1B8. -/
theorem test_f_len :
    after (exec .fLen ((pending 56 seqFLen).setLenbits 0x1B8)) (fun t => (t.cell 55, t.cell 56, t.cell 62, t.cell 63, t.buflen)) =
      some (some 0x61#8, some 0x00#8, some 0x01#8, some 0xB8#8, 64#7) := by decide +kernel
/-- R146's example. -/
theorem test_f_out :
    after (exec .fOut (State.reset.setH { h0 := 0xA9993E36, h1 := 0x4706816A, h2 := 0xBA3E2571, h3 := 0x7850C26C, h4 := 0x9CD0D89D }))
      (fun t => (t.digest, t.dvalid, t.seq)) =
      some (#v[0xA9, 0x99, 0x3E, 0x36, 0x47, 0x06, 0x81, 0x6A, 0xBA, 0x3E, 0x25, 0x71, 0x78, 0x50, 0xC2, 0x6C, 0x9C, 0xD0,
        0xD8, 0x9D], true, seqEInit) := by decide +kernel
/-- V28: hardware reset in the middle of a round. -/
theorem test_hardware_reset :
    after (step ((pending 64 (seqXRound 1 7)).setPins [Pins.reset]))
      (fun t => (t.h, t.buflen, t.nblk, t.seq, t.dvalid, t.faultFlag)) = some (iv, 0#7, 0#64, seqIdle, false, false) := by
  decide +kernel

/-- R196, V28: the reset at the step after the acceptance ends the run; the second word is not presented, so CMDREG does
not hold it and nothing is shown. -/
theorem test_reset_ends_the_run :
    (match runWords [0x200#10, 0x161#10] ((pending 3 seqIdle).setPins [Pins.quiet, Pins.reset]) with
      | .next { final := .reset t, shown := os } => some (t.h, t.buflen, t.seq, t.pins, os)
      | _ => none) = some (iv, 0#7, seqIdle, [], []) := by decide +kernel
/-- R166, R196: IDLE with `rst = 1` is no boundary: the reset at the edge after NOP ends the run. -/
theorem test_reset_at_idle_ends_the_run :
    (match runWords [0x000#10, 0x161#10] ((pending 3 seqIdle).setPins [Pins.quiet, Pins.reset]) with
      | .next { final := .reset t, shown := os } => some (t.buflen, os)
      | _ => none) = some (0#7, []) := by decide +kernel

/-! ### Scripts (R85 to R87) and digests (R15) -/

theorem test_one_byte_three_spellings :
    (parseLine "UPDATE 0x61".toList).map assemble = some [0x161#10] ∧
    (parseLine "UPDATE 97".toList).map assemble = some [0x161#10] ∧
    (parseLine "UPDATE 'a'".toList).map assemble = some [0x161#10] := by decide +kernel
/-- R86: blanks before and after the comma. -/
theorem test_count_takes_blanks :
    (parseLine "UPDATE.N 2 , 'a'".toList).map assemble = some [0x161#10, 0x161#10] ∧
    (parseLine "UPDATE.N 2,0x61 ; x".toList).map assemble = some [0x161#10, 0x161#10] ∧
    (parseLine "UPDATE.N , 'a'".toList).map assemble = none := by decide +kernel
theorem test_hash_script :
    assemble [.hashS "abc".toList] = [0x300#10, 0x161#10, 0x162#10, 0x163#10, 0x200#10] := by decide +kernel

/-! ### Witnesses: states and operands that meet the statements' hypotheses

Each is named after its statement; a statement of several clauses has one at a boundary value of each. -/

theorem witness_DecodeAndEncodeAgree :
    (Instr.xRoundPar2 19#5).wf = true ∧ decode (.seq 0x2F3#11) = .ok (.xRoundPar2 19#5) ∧
    decode (.cmd 0x3FF#10) = .ok (.reset 0xFF#8) := by decide

theorem witness_SequencerWordSelectsItsRow :
    decodeSeq 0x280#11 = .ok (.xRoundCh 0#5) ∧ decodeSeq 0x293#11 = .ok (.xRoundCh 19#5) ∧
    decodeSeq 0x600#11 = .ok .fOut := by decide

/-- A word of each reserved kind, and the legal word beside it. -/
theorem witness_ReservedSequencerWordsAreRejected :
    (13 ≤ (0x680#11 : BitVec 11).toNat / 128 ∧ ∃ e, decodeSeq 0x680#11 = .error e) ∧
    (∃ e, decodeSeq 0x604#11 = .error e) ∧ (∃ e, decodeSeq 0x2F4#11 = .error e) ∧ (∃ e, decodeSeq 0x29F#11 = .error e) ∧
    (∃ i, decodeSeq 0x2F3#11 = .ok i) ∧ (∃ i, decodeSeq 0x600#11 = .ok i) :=
  ⟨⟨by decide, _, rfl⟩, ⟨_, rfl⟩, ⟨_, rfl⟩, ⟨_, rfl⟩, ⟨_, rfl⟩, ⟨_, rfl⟩⟩

theorem witness_StepAcceptsThePresentedCommand :
    let s := State.reset.setPins [Pins.command 0x161#10]
    s.seq = seqIdle ∧ s.pins = Pins.command 0x161#10 :: [] ∧ (Pins.command 0x161#10).rst = false ∧
      (Pins.command 0x161#10).cmdValid = true := by decide

/-- At IDLE with no word presented, and inside a command with a word presented. -/
theorem witness_StepRunsTheSequencerWord :
    (State.reset.sample.rst = false ∧ decode (.seq State.reset.seq.word) = .ok .idle ∧
      State.reset.sample.cmdValid = false) ∧
    (((pending 3 seqFTerm).setPins [Pins.command 0x161#10]).sample.rst = false ∧
      decode (.seq (pending 3 seqFTerm).seq.word) = .ok .fTerm ∧ (pending 3 seqFTerm).seq ≠ seqIdle) := by
  decide +kernel

theorem witness_StepRefusesReservedSequencerWords :
    let s := State.reset.setSeq { uop := 0b1101, stage := 0, r := 0 }
    s.sample.rst = false ∧ decode (.seq s.seq.word) = .error (.reservedUop 0b1101#4) := by decide

/-- Reset at a command boundary, inside a round, and at a reserved sequencer word. -/
theorem witness_HardwareResetFromAnyState :
    (State.reset.setPins [Pins.reset]).sample.rst = true ∧
    ((pending 64 (seqXRound 1 7)).setPins [Pins.reset]).sample.rst = true ∧
    ((State.reset.setSeq { uop := 0b1111, stage := 3, r := 31 }).setPins [Pins.reset]).sample.rst = true := by
  decide +kernel

theorem witness_WordWhileBusyHasNoEffect :
    (pending 3 seqFLatch).seq.uop ≠ 0 ∧ (Pins.command 0x300#10).rst = false := by decide

/-- The two states next to the length bound. -/
theorem witness_UpdateAcceptanceSelectsAppend :
    let s := longMessage 62
    let t := (pending 63 seqIdle).setNblk 0x007FFFFFFFFFFFFE#64
    (s.faultFlag = false ∧ ¬ (s.nblk.toNat = 2 ^ 55 - 1 ∧ s.buflen.toNat = 63)) ∧
    (t.faultFlag = false ∧ ¬ (t.nblk.toNat = 2 ^ 55 - 1 ∧ t.buflen.toNat = 63)) := by decide

theorem witness_LengthFaultEntry :
    let s := longMessage 63
    s.faultFlag = false ∧ s.nblk.toNat = 2 ^ 55 - 1 ∧ s.buflen.toNat = 63 := by decide

theorem witness_FinalizeAcceptanceSelectsLatch : (longMessage 63).faultFlag = false := by decide

theorem witness_FaultedEngineIgnoresUpdateAndFinalize : faultedState.faultFlag = true := by decide

theorem witness_IdleChangesNothing : finalised.seq = { uop := 0, stage := 0, r := 0 } := by decide

/-- Each clause: below 63, at 63. -/
theorem witness_BufferAppendEffect :
    ((pending 0 seqBAppend).buflen.toNat ≤ 63 ∧ (pending 0 seqBAppend).buflen.toNat ≠ 63) ∧
    ((pending 62 seqBAppend).buflen.toNat ≤ 63 ∧ (pending 62 seqBAppend).buflen.toNat ≠ 63) ∧
    (pending 63 seqBAppend).buflen.toNat = 63 := by decide

theorem witness_BufferRetireEffect :
    ((pending 64 seqBRetire).setNblk 0x007FFFFFFFFFFFFE#64).nblk.toNat ≤ 2 ^ 55 - 2 := by decide

theorem witness_LoadReadsTheBlockBigEndian :
    (pending 64 seqXLoad).buflen.toNat = 64 ∧ ∀ k, k < 64 → (pending 64 seqXLoad).cell k = some ((fun _ => 0x61#8) k) := by
  decide +kernel

/-- The first and the last legal round operand. -/
theorem witness_RoundEffects : (0#5).toNat ≤ 19 ∧ (19#5).toNat ≤ 19 := by decide

theorem witness_ReservedRoundsAreRefused : 20 ≤ (20#5).toNat ∧ 20 ≤ (31#5).toNat := by decide

/-- Each clause of the return. -/
theorem witness_AddFoldsTheWorkingRegisters :
    (pending 64 seqXAdd).xret = .upd ∧ ((pending 64 seqXAdd).setXret .spill).xret = .spill ∧
    ((pending 64 seqXAdd).setXret .last).xret = .last := by decide

theorem witness_LatchComputesTheBitLength :
    (longMessage 63).nblk.toNat ≤ 2 ^ 55 - 1 ∧ (longMessage 63).buflen.toNat ≤ 63 := by decide

/-- The four outcomes: 55, 56, 63 and another. -/
theorem witness_TerminatorEffect :
    (pending 0 seqFTerm).buflen.toNat ≤ 63 ∧ (pending 55 seqFTerm).buflen.toNat = 55 ∧
    (pending 56 seqFTerm).buflen.toNat = 56 ∧ (pending 63 seqFTerm).buflen.toNat = 63 := by decide

theorem witness_ZeroFillEffect :
    (((pending 55 seqFZero).setXret .last).buflen.toNat ≤ 63 ∧ ((pending 55 seqFZero).setXret .last).xret ≠ .upd) ∧
    (((pending 63 seqFZero).setXret .spill).buflen.toNat ≤ 63 ∧ ((pending 63 seqFZero).setXret .spill).xret ≠ .upd) := by
  decide

theorem witness_ZeroFillWithoutTargetStillAppends :
    (pending 4 seqFZero).buflen.toNat ≤ 63 ∧ (pending 4 seqFZero).xret = .upd := by decide

theorem witness_AppendOutsideTheBufferFaults :
    64 ≤ (pending 64 seqFZero).buflen.toNat ∧ 64 ≤ (pending 127 seqBAppend).buflen.toNat := by decide

theorem witness_AccessSummary : ∃ t, exec .fLen (pending 56 seqFLen) = .next t := ⟨_, rfl⟩

/-- An instruction that stores nothing, a byte and the length field. -/
theorem witness_EveryOtherCellKeepsItsByte :
    (instrStores .bRetire (pending 64 seqBRetire) = none ∧ ∃ t, exec .bRetire (pending 64 seqBRetire) = .next t) ∧
    (instrStores .fTerm (pending 63 seqFTerm) = some (63, [0x80#8]) ∧ ∃ t, exec .fTerm (pending 63 seqFTerm) = .next t) ∧
    (instrStores .fLen (pending 56 seqFLen) = some (56, be64 0) ∧ ∃ t, exec .fLen (pending 56 seqFLen) = .next t) := by
  refine ⟨⟨rfl, _, rfl⟩, ⟨by decide, ?_⟩, ⟨rfl, _, exec_fLen _⟩⟩
  exact ⟨_, exec_fTerm (by decide)⟩

/-- The four changes of a flag. -/
theorem witness_FlagsChangeOnlyWhereTheRulesSay :
    (∃ t, step ((longMessage 63).setPins [Pins.command 0x122#10]) = .next t ∧
      (longMessage 63).faultFlag = false ∧ t.faultFlag = true) ∧
    (∃ t, step (faultedState.setPins [Pins.command 0x300#10]) = .next t ∧
      faultedState.faultFlag = true ∧ t.faultFlag = false) ∧
    (∃ t, step (pending 64 seqFOut) = .next t ∧ (pending 64 seqFOut).dvalid = false ∧ t.dvalid = true) ∧
    (∃ t, step (finalised.setPins [Pins.command 0x161#10]) = .next t ∧ finalised.dvalid = true ∧ t.dvalid = false) := by
  refine ⟨⟨_, rfl, rfl, rfl⟩, ⟨_, rfl, rfl, rfl⟩, ⟨_, rfl, rfl, rfl⟩, ⟨_, rfl, rfl, rfl⟩⟩

theorem witness_TransformControlIsDataIndependent :
    let s := pending 64 seqXAdd
    let s' := s.setH { h0 := 1, h1 := 2, h2 := 3, h3 := 4, h4 := 5 }
    transformOp .xAdd = true ∧ s.xret = s'.xret ∧ (∃ t, exec .xAdd s = .next t) ∧ (∃ t, exec .xAdd s' = .next t) ∧
      s.h ≠ s'.h := ⟨rfl, rfl, ⟨_, rfl⟩, ⟨_, rfl⟩, by decide⟩

/-! Invariant states: command boundaries and positions inside each command. -/

/-- Three bytes of a message are pending. -/
theorem inv_message : Inv (pending 3 seqIdle) :=
  Inv.of_clear_flags (by decide) (by decide) (by decide) (by decide) rfl rfl (i := .idle) rfl (positionOk_idle.2 (by decide))

/-- A digest is offered. -/
theorem inv_finalised : Inv finalised :=
  ⟨by decide, by decide, by decide, by decide, by decide, by decide, ⟨.idle, rfl, positionOk_idle.2 (by decide)⟩⟩

/-- The fault state; NBLK = MAX_NBLK. -/
theorem inv_faulted : Inv faultedState :=
  ⟨by decide +kernel, by decide +kernel, by decide, by decide, by decide, by decide,
    ⟨.idle, rfl, positionOk_idle.2 (by decide)⟩⟩

/-- UPDATE's byte is about to fill the buffer of the last block that the length bound admits. -/
theorem inv_last_append : Inv ((pending 63 seqBAppend).setNblk 0x007FFFFFFFFFFFFE#64) :=
  Inv.of_clear_flags (by decide +kernel) (by decide +kernel) (by decide) (by decide) rfl rfl (i := .bAppend) rfl
    (positionOk_bAppend.2 (by decide))

/-- The last round of a transform on behalf of FINALIZE, with a full buffer. -/
theorem inv_last_round : Inv ((pending 64 (seqXRound 3 19)).setXret .last) :=
  Inv.of_clear_flags (by decide +kernel) (by decide +kernel) (by decide) (by decide) rfl rfl (i := .xRoundPar2 19) rfl
    ((positionOk_xRoundPar2 19).2 ⟨by decide, by decide⟩)

/-- The start of the longest trace's padding (R80, p = 56). -/
theorem inv_terminator : Inv (pending 56 seqFTerm) :=
  Inv.of_clear_flags (by decide +kernel) (by decide +kernel) (by decide) (by decide) rfl rfl (i := .fTerm) rfl
    (positionOk_fTerm.2 (by decide))

/-- F.ZERO in a spill block and in a last block, at both ends of each range. -/
theorem inv_zero_fill :
    Inv ((pending 57 seqFZero).setXret .spill) ∧ Inv ((pending 63 seqFZero).setXret .spill) ∧
    Inv ((pending 0 seqFZero).setXret .last) ∧ Inv ((pending 55 seqFZero).setXret .last) := by
  refine ⟨?_, ?_, ?_, ?_⟩ <;>
    exact Inv.of_clear_flags (by decide +kernel) (by decide +kernel) (by decide) (by decide) rfl rfl (i := .fZero) rfl
      (positionOk_fZero.2 (by decide))

theorem witness_EveryStepKeepsTheInvariant :
    Inv (pending 56 seqFTerm) ∧ ∃ t, step (pending 56 seqFTerm) = .next t := ⟨inv_terminator, _, rfl⟩

theorem witness_InvariantStatesNeverStop : Inv ((pending 64 (seqXRound 3 19)).setXret .last) := inv_last_round

theorem witness_NoStepReadsAnUnwrittenValue :
    Inv (pending 56 seqFTerm) ∧ (pending 56 seqFTerm).sample.rst = false ∧ ∃ t, step (pending 56 seqFTerm) = .next t :=
  ⟨inv_terminator, rfl, _, rfl⟩

/-- With FAULT = 0, with a digest offered, and with FAULT = 1. -/
theorem witness_CommandBoundaryFacts :
    (Inv (pending 3 seqIdle) ∧ (pending 3 seqIdle).seq = seqIdle) ∧
    (Inv finalised ∧ finalised.seq = seqIdle ∧ finalised.dvalid = true) ∧
    (Inv faultedState ∧ faultedState.seq = seqIdle ∧ faultedState.faultFlag = true) :=
  ⟨⟨inv_message, rfl⟩, ⟨inv_finalised, rfl, rfl⟩, ⟨inv_faulted, rfl, rfl⟩⟩

theorem witness_TransformRunsInEightyTwoSteps :
    let s := pending 64 seqXLoad
    s.seq = seqXLoad ∧ s.buflen.toNat = 64 ∧ (∀ k, k < 64 → (s.cell k).isSome = true) ∧ s.noReset :=
  ⟨rfl, rfl, by decide +kernel, fun _ h => nomatch h⟩

theorem witness_ExpandedScheduleAgrees : (List.replicate 64 0x61#8).length = 64 := by decide

theorem boundary_message : Boundary (pending 3 seqIdle) := ⟨inv_message, rfl, rfl⟩
theorem boundary_finalised : Boundary finalised := ⟨inv_finalised, rfl, rfl⟩
theorem boundary_faulted : Boundary faultedState := ⟨inv_faulted, rfl, rfl⟩

theorem witness_AcceptedCommandMakesItsTransition :
    Boundary (pending 3 seqIdle) ∧ Boundary finalised ∧ Boundary faultedState :=
  ⟨boundary_message, boundary_finalised, boundary_faulted⟩

theorem witness_EveryCommandCompletes : Inv (pending 56 seqFTerm) ∧ (pending 56 seqFTerm).noReset :=
  ⟨inv_terminator, fun _ h => nomatch h⟩

theorem witness_FinalizeReinitialises : Boundary (pending 3 seqIdle) ∧ (pending 3 seqIdle).faultFlag = false :=
  ⟨boundary_message, rfl⟩

theorem witness_FaultedEngineGivesNoDigest :
    Boundary faultedState ∧ faultedState.faultFlag = true ∧ ∀ c ∈ [finalizeWord], cmdOp c ≠ 0b11#2 :=
  ⟨boundary_faulted, rfl, fun _ h => List.mem_singleton.1 h ▸ (by decide)⟩

/-- Two engines that differ in a register no rule reads. -/
theorem witness_LeftoverRegistersAreNeverObserved :
    Boundary (pending 3 seqIdle) ∧ Boundary ((pending 3 seqIdle).setLenbits 5) ∧
    (pending 3 seqIdle).arch = ((pending 3 seqIdle).setLenbits 5).arch ∧
    (pending 3 seqIdle).lenbits ≠ ((pending 3 seqIdle).setLenbits 5).lenbits :=
  ⟨boundary_message, ⟨⟨inv_message.1, inv_message.2, inv_message.3, inv_message.4, inv_message.5, inv_message.6,
    inv_message.7⟩, rfl, rfl⟩, rfl, by decide⟩

theorem witness_EngineComputesSha1 :
    Boundary finalised ∧ finalised.faultFlag = false ∧ finalised.buflen = 0 ∧ finalised.nblk = 0 ∧
    ([0x61, 0x62, 0x63] : List Byte).length < 2 ^ 61 := ⟨boundary_finalised, rfl, rfl, rfl, by decide⟩

/-- 63 bytes are pending, so that the byte completes a block. -/
theorem witness_UpdateExtendsTheAbsorbedMessage :
    let m := List.replicate 63 0x61#8
    let a : Arch := { h := iv, pending := m, nblk := 0, digest := none, fault := false }
    Absorbed m a ∧ a.fault = false ∧ a.pending.length ≤ 63 ∧ m.length + 1 < 2 ^ 61 :=
  ⟨⟨by decide, by decide, rfl⟩, rfl, by decide, by decide⟩

/-- The empty update, and the last byte inside the length bound. -/
theorem witness_MultiByteUpdateNetEffect :
    let a : Arch := { h := iv, pending := List.replicate 62 0x61#8, nblk := 0x007FFFFFFFFFFFFF#64, digest := none, fault := false }
    a.fault = false ∧ a.pending.length ≤ 63 ∧ 64 * a.nblk.toNat + a.pending.length + ([] : List Byte).length < 2 ^ 61 ∧
    64 * a.nblk.toNat + a.pending.length + [0x61#8].length < 2 ^ 61 := by decide

theorem witness_IdleAndAccumulatingTransitions :
    let a : Arch := { Arch.initial with nblk := 0x007FFFFFFFFFFFFF#64, pending := List.replicate 62 0x61#8 }
    a.nblk.toNat ≤ 2 ^ 55 - 1 ∧ a.fault = false ∧ ¬ (a.nblk.toNat = 2 ^ 55 - 1 ∧ a.pending.length = 63) := by decide

/-- The empty message, whose block has a zero byte at index 1. -/
theorem witness_PaddingFillsWholeBlocks :
    ([] : List Byte).length < 2 ^ 61 ∧ ([] : List Byte).length < 1 ∧ 1 < (pad []).length - 8 := by decide +kernel

/-- Each clause: a digest offered, none offered, ready. -/
theorem witness_OutputPorts :
    finalised.dvalid = true ∧ State.reset.dvalid = false ∧ State.reset.seq.uop = 0 ∧ State.reset.sample.rst = false := by
  decide

/-- Engine 1 of two, and engine 0 beside it. -/
theorem witness_InstancesShareNoState :
    let es : Engines 2 := #v[State.reset, pending 3 seqFTerm]
    (0 : Fin 2) ≠ 1 ∧ (∃ t, step es[(1 : Fin 2)] = .next t) ∧ ∃ u, step es[(0 : Fin 2)] = .next u :=
  ⟨by decide, ⟨_, rfl⟩, _, rfl⟩

end Sys2Proof.Tests
end

section
/-! SUPPORT. Accepted commands from boundary to boundary (spec/00_scope.md R16): quiet runs, the pending bytes, the
transform, the padding, and the four commands. -/

namespace Sys2Proof.Machine

variable {s t u : State}

/-! ### Quiet runs: the host drives nothing -/

theorem dropSample_of_quiet (hp : s.pins = []) : s.dropSample = s := by
  cases s; cases hp; rfl

/-- R77: with nothing driven a step runs the micro-operation that SEQ names. -/
theorem step_quiet {q : Seq} {i : Instr} (hp : s.pins = []) (hs : s.seq = q)
    (hd : decodeSeqFields q.uop q.stage q.r = .ok i) : step s = exec i s := by
  have hq : s.sample = Pins.quiet := sample_nil hp
  rw [step_micro (by rw [hq]; rfl) (hs ▸ hd) (fun _ => by rw [hq]; rfl), dropSample_of_quiet hp]

theorem append_pins {b : Byte} (h : s.append b = .ok t) : t.pins = s.pins := by
  obtain ⟨-, rfl⟩ := append_ok h; rfl

theorem afterAppend_pins (s : State) : s.afterAppend.pins = s.pins := by
  unfold State.afterAppend; split <;> rfl

theorem afterPad_pins (s : State) : s.afterPad.pins = s.pins := rfl

theorem runRound_pins {stage : BitVec 2} {f : Word → Word → Word → Word} {k : Word} {r : BitVec 5}
    (h : runRound stage f k r s = .next t) : t.pins = s.pins := by
  unfold runRound at h
  split at h <;> cases h
  rfl

/-- No meaning touches the host's samples. -/
theorem exec_pins {i : Instr} (h : exec i s = .next t) : t.pins = s.pins := by
  cases i with
  | nop | reset | idle | eInit | bRetire | xAdd | fLatch | fSpill | fOut => cases h; rfl
  | xLoad => rw [exec_xLoad] at h; simp [← Host.Outcome.next.inj h]
  | xRoundCh | xRoundPar1 | xRoundMaj | xRoundPar2 => exact runRound_pins h
  | update d =>
    simp only [exec, execUpdate] at h
    split at h
    · cases h; rfl
    · split at h <;> cases h <;> rfl
  | finalize d =>
    simp only [exec, execFinalize] at h
    split at h <;> cases h <;> rfl
  | bAppend =>
    simp only [exec, execBAppend] at h
    split at h
    · next ha => cases h; rw [afterAppend_pins, append_pins ha]
    · cases h
  | fTerm =>
    simp only [exec, execFTerm] at h
    split at h
    · next ha => cases h; rw [afterPad_pins, setXret_pins]; exact append_pins ha
    · cases h
  | fZero =>
    simp only [exec, execFZero] at h
    split at h
    · next ha => cases h; rw [afterPad_pins]; exact append_pins ha
    · cases h
  | fLen => rw [exec_fLen] at h; cases h; rfl

theorem step_pins (h : step s = .next t) : t.pins = s.pins.tail := by
  rcases step_next_cases h with ⟨-, rfl⟩ | ⟨-, -, -, he⟩ | ⟨-, -, i, -, he⟩
  · rfl
  · exact exec_pins he
  · exact exec_pins he

theorem stepsTo_quiet {n : Nat} (h : stepsTo n s t) (hp : s.pins = []) : t.pins = [] := by
  induction n generalizing s with
  | zero => cases h; exact hp
  | succ n ih =>
    obtain ⟨u, hu, hn⟩ := h
    exact ih hn (by rw [step_pins hu, hp]; rfl)

/-- R79: (IDLE,0,0) is the only word with UOP = IDLE that is not reserved. -/
theorem seq_eq_idle_of_decode {q : Seq} {i : Instr} (hu : q.uop = 0)
    (hd : decodeSeqFields q.uop q.stage q.r = .ok i) : q = seqIdle := by
  obtain ⟨uop, stage, r⟩ := q
  obtain rfl : uop = 0 := hu
  by_cases h0 : stage = 0 ∧ r = 0
  · obtain ⟨rfl, rfl⟩ := h0; rfl
  · have he : decodeSeqFields 0 stage r = .error (.reservedStageRound stage r) := if_neg h0
    rw [he] at hd; cases hd

/-- R78: a ready engine to which nothing is presented stays as it is. -/
theorem step_ready_quiet (hp : s.pins = []) (hr : s.cmdReady = true) (h : step s = .next t) : t = s := by
  obtain ⟨huop, hrst⟩ := (cmdReady_iff s).1 hr
  cases hd : decodeSeqFields s.seq.uop s.seq.stage s.seq.r with
  | error e => rw [step_reserved hrst hd] at h; cases h
  | ok i =>
    have hq : s.seq = seqIdle := seq_eq_idle_of_decode huop hd
    rw [step_quiet hp hq decodeSeqFields_idle, exec_idle, ← hq] at h
    cases h; rfl

/-- R196: a quiet run that ends at IDLE is what waiting for readiness finds, whatever fuel is left over. -/
theorem toBoundary_of_stepsTo {n m : Nat} (h : stepsTo n s t) (hp : s.pins = []) (ht : t.seq = seqIdle)
    (hm : n ≤ m) : toBoundary m s = .next (.ready t) := by
  induction n generalizing s m with
  | zero => cases h; exact toBoundary_ready m (cmdReady_of_quiet ht hp)
  | succ n ih =>
    obtain ⟨u, hu, hn⟩ := h
    have hup : u.pins = [] := by rw [step_pins hu, hp]; rfl
    cases hr : s.cmdReady with
    | true =>
      obtain rfl : u = s := step_ready_quiet hp hr hu
      exact ih hn hp (by omega)
    | false =>
      obtain ⟨m, rfl⟩ : ∃ k, m = k + 1 := ⟨m - 1, by omega⟩
      rw [toBoundary_step m hr (by rw [sample_nil hp]; rfl) hu]
      exact ih hn hup (by omega)

/-- At most `n` steps lead from s to t. -/
def ReachesWithin (n : Nat) (s t : State) : Prop := ∃ k, k ≤ n ∧ stepsTo k s t

theorem ReachesWithin.refl (n : Nat) (s : State) : ReachesWithin n s s := ⟨0, Nat.zero_le n, rfl⟩

theorem ReachesWithin.trans {m n : Nat} (h : ReachesWithin m s t) (h2 : ReachesWithin n t u) :
    ReachesWithin (m + n) s u := by
  obtain ⟨j, hj, hst⟩ := h
  obtain ⟨k, hk, htu⟩ := h2
  exact ⟨j + k, Nat.add_le_add hj hk, stepsTo_add hst htu⟩

theorem ReachesWithin.of_step (h : step s = .next t) : ReachesWithin 1 s t := ⟨1, Nat.le_refl 1, stepsTo_one h⟩

/-! ### The pending bytes -/

/-- R22: BUF, in its canonical form, holds the bytes p at BUF[0..BUFLEN−1]. -/
structure Holds (p : List Byte) (s : State) : Prop where
  canonical : Memory.wf s.buf = true
  length : s.buflen.toNat = p.length
  cells : ∀ k, k < p.length → s.cell k = p[k]?

variable {p : List Byte}

/-- Only BUF and BUFLEN matter. -/
theorem Holds.congr (h : Holds p s) (hb : t.buf = s.buf) (hl : t.buflen = s.buflen) : Holds p t :=
  ⟨hb ▸ h.canonical, hl ▸ h.length, fun k hk => (cell_of_buf hb k).trans (h.cells k hk)⟩

theorem Holds.written (h : Holds p s) (k : Nat) (hk : k < s.buflen.toNat) : (s.cell k).isSome = true := by
  rw [h.length] at hk
  simp [h.cells k hk, hk]

theorem Holds.loadByte (h : Holds p s) {k : Nat} (hk : k < p.length) : s.loadByte k = p[k] :=
  loadByte_of_cell (h.length.symm ▸ hk) (by rw [h.cells k hk, List.getElem?_eq_getElem hk])

theorem Holds.map_loadByte (h : Holds p s) : (List.range p.length).map s.loadByte = p := by
  apply List.ext_getElem (by simp)
  intro k _ hk
  simp [h.loadByte hk]

/-- R52: the block read is the pending bytes. -/
theorem Holds.block (h : Holds p s) (hp : p.length = 64) : s.block = p := by
  rw [State.block, ← hp]; exact h.map_loadByte

theorem Holds.arch_eq (h : Holds p s) :
    s.arch = { h := s.h, pending := p, nblk := s.nblk, digest := if s.dvalid then some s.digest else none,
               fault := s.faultFlag } := by
  simp only [State.arch, h.length, h.map_loadByte]

/-- R39: in a state of the invariant the pending bytes are in BUF. -/
theorem Inv.holds (h : Inv s) : Holds s.arch.pending s := by
  refine ⟨h.canonical, by simp [State.arch], fun k hk => ?_⟩
  have hk : k < s.buflen.toNat := by simpa [State.arch] using hk
  obtain ⟨b, hb⟩ := Option.isSome_iff_exists.1 (h.written k hk)
  simp [State.arch, hk, hb, loadByte_of_cell hk hb]

/-- R53: an empty buffer holds no bytes, whatever its cells are. -/
theorem holds_nil (hc : Memory.wf s.buf = true) (hl : s.buflen = 0) : Holds [] s :=
  ⟨hc, by rw [hl]; rfl, fun _ hk => absurd hk (by simp)⟩

theorem Holds.append (h : Holds p s) (hp : p.length ≤ 63) (b : Byte) :
    Holds (p ++ [b]) ((s.setBuf (Memory.insert s.buf s.buflen.toNat b)).setBuflen (s.buflen + 1)) := by
  have hl : s.buflen.toNat ≤ 63 := h.length ▸ hp
  refine ⟨wf_append b h.canonical hl, ?_, fun k hk => ?_⟩
  · rw [setBuflen_buflen, buflen_succ hl, h.length, List.length_append, List.length_singleton]
  · refine (lookup_append s b k).trans ?_
    rw [h.length]
    by_cases he : k = p.length
    · simp [he]
    · have hk : k < p.length := by simp only [List.length_append, List.length_singleton] at hk; omega
      rw [if_neg he, h.cells k hk, List.getElem?_append_left hk]

/-- R145: the length field behind 56 pending bytes completes the block. -/
theorem Holds.putLength (h : Holds p s) (hp : p.length = 56) (v : DWord) :
    Holds (p ++ be64 v) ((s.setBuf (Memory.store s.buf 56 (be64 v))).setBuflen 64) := by
  refine ⟨wf_store _ h.canonical (Nat.le_refl 64), by simp [hp], fun k hk => ?_⟩
  refine (lookup_store s.buf 56 k (be64 v)).trans ?_
  simp only [List.length_append, be64_length, hp] at hk
  by_cases hk2 : k < 56
  · rw [if_neg (by omega), List.getElem?_append_left (by omega)]
    exact h.cells k (by omega)
  · rw [if_pos (by rw [be64_length]; omega), List.getElem?_append_right (by omega), hp]

/-! ### The transform -/

/-- R120: the step at X.LOAD with a full buffer. -/
theorem step_xLoad (hs : s.seq = seqXLoad) (hr : s.sample.rst = false) (hl : s.buflen.toNat = 64)
    (hc : ∀ k, k < 64 → (s.cell k).isSome = true) :
    ∃ u, step s = .next u ∧ u.w = s.loadBlock ∧ u.work = workOfH s.h ∧ u.seq = roundSeq 0 ∧
      OnlyWrites [.work, .w, .seq, .pins] s u ∧ u.pins = s.pins.tail := by
  have hst := step_micro (i := .xLoad) hr (by rw [hs]; rfl) fun h => absurd (hs.symm.trans h) (by decide)
  have hw : s.dropSample.blockWritten = true := blockWritten_of_cells (Nat.le_of_eq hl.symm) hc
  rw [exec_xLoad, hw, if_pos rfl] at hst
  exact ⟨_, hst, rfl, rfl, rfl,
    (((onlyWrites_dropSample (by decide)).setW _ (by decide)).setWork _ (by decide)).setSeq _ (by decide), rfl⟩

/-- R127: the step at X.ADD. -/
theorem step_xAdd (hs : s.seq = seqXAdd) (hr : s.sample.rst = false) :
    ∃ u, step s = .next u ∧ u.h = addWork s.h s.work ∧ u.seq = addSuccessor s.xret ∧
      OnlyWrites [.h, .seq, .pins] s u := by
  have hst := step_micro (i := .xAdd) hr (by rw [hs]; rfl) fun h => absurd (hs.symm.trans h) (by decide)
  exact ⟨_, hst, rfl, rfl, ((onlyWrites_dropSample (by decide)).setH _ (by decide)).setSeq _ (by decide)⟩

/-- R130, R131: from X.LOAD with a full buffer the 82 micro-operations leave Transform(H, BUF) in H. -/
theorem stepsTo_transform (hs : s.seq = seqXLoad) (hl : s.buflen.toNat = 64)
    (hc : ∀ k, k < 64 → (s.cell k).isSome = true) (hr : s.noReset) :
    ∃ t, stepsTo 82 s t ∧ t.h = transform s.h s.block ∧ t.seq = addSuccessor s.xret ∧
      OnlyWrites [.h, .work, .w, .seq, .pins] s t := by
  obtain ⟨u, hu, huw, huk, huq, huo, hup⟩ := step_xLoad hs hr.sample hl hc
  obtain ⟨v, hv, hvx, hvq, hvo, hvr⟩ := stepsTo_rounds 80 0 u rfl huq (hr.of_tail hup)
  obtain ⟨t, ht, hth, htq, hto⟩ := step_xAdd hvq hvr.sample
  have hvk : v.work = ((List.range 80).foldl transformRound
      (Vector.ofFn fun j : Fin 16 => blockWord s.block j.val, workOfH s.h)).2 := by
    rw [List.range_eq_range', ← loadBlock_eq, ← huw, ← huk, ← hvx]
  have hsv : OnlyWrites [.h, .work, .w, .seq, .pins] s v := (huo.trans hvo).mono (by decide)
  refine ⟨t, stepsTo_add (stepsTo_one hu) (stepsTo_add hv (stepsTo_one ht)), ?_, ?_, ?_⟩
  · rw [hth, hvk, (huo.trans hvo) .h (by decide)]; rfl
  · rw [htq, hsv .xret (by decide)]
  · exact hsv.trans (hto.mono (by decide))

/-- R130, R131 with nothing driven, over the bytes that BUF holds; they stay there. -/
theorem stepsTo_transform_quiet (hp : s.pins = []) (hs : s.seq = seqXLoad) (hh : Holds p s) (hl : p.length = 64) :
    ∃ t, stepsTo 82 s t ∧ t.pins = [] ∧ Holds p t ∧ t.h = transform s.h p ∧ t.seq = addSuccessor s.xret ∧
      OnlyWrites [.h, .work, .w, .seq, .pins] s t := by
  have h64 : s.buflen.toNat = 64 := hh.length.trans hl
  obtain ⟨t, hst, hth, htq, hto⟩ := stepsTo_transform hs h64 (fun k hk => hh.written k (h64 ▸ hk))
    (fun x hx => by rw [hp] at hx; cases hx)
  exact ⟨t, hst, stepsTo_quiet hst hp, hh.congr (hto .buf (by decide)) (hto .buflen (by decide)),
    by rw [hth, hh.block hl], htq, hto⟩

/-! ### The padding -/

/-- What the padding of FINALIZE may write before F.OUT. -/
def padFields : List Field := [.h, .buf, .buflen, .work, .w, .seq, .xret, .pins, .free]

/-- R142, R143: with XRET = x the padding goes on until BUFLEN is `stop`, and then to q. -/
def StopsAt (x : XRet) (stop : Nat) (q : Seq) : Prop :=
  ∀ n free, padSuccessor x n free = if n = stop then q else seqFZero

theorem stopsAt_last : StopsAt .last 56 seqFLen := fun _ _ => rfl
theorem stopsAt_spill : StopsAt .spill 64 seqXLoad := fun _ _ => rfl

/-- The engine is between two padding bytes, with nothing driven: p is in BUF, and SEQ stands where R78 says. -/
structure Padding (stop : Nat) (q : Seq) (p : List Byte) (s : State) : Prop where
  quiet : s.pins = []
  holds : Holds p s
  seq : s.seq = if p.length = stop then q else seqFZero

/-- R143: one zero byte. -/
theorem step_fZero {stop : Nat} {q : Seq} (hx : StopsAt s.xret stop q) (h : Padding stop q p s)
    (hs : p.length ≠ stop) (hl : p.length ≤ 63) :
    ∃ u, step s = .next u ∧ Padding stop q (p ++ [0x00#8]) u ∧ OnlyWrites [.buf, .buflen, .seq, .free] s u := by
  have hb : s.buflen.toNat ≤ 63 := h.holds.length ▸ hl
  have hq : s.seq = seqFZero := h.seq.trans (if_neg hs)
  have hst := step_quiet (i := .fZero) h.quiet hq rfl
  rw [exec_fZero hb] at hst
  refine ⟨_, hst, ⟨h.quiet, (h.holds.append hl fillByte).congr rfl rfl, ?_⟩, ?_⟩
  · rw [List.length_append, List.length_singleton, ← hx _ s.free, ← h.holds.length]; rfl
  · exact ((((OnlyWrites.refl _ s).setBuf _ (by decide)).setBuflen _ (by decide)).setSeq _ (by decide)).setFree _
      (by decide)

/-- R143: the n zero bytes up to the stop. -/
theorem stepsTo_fill {x : XRet} {stop : Nat} {q : Seq} (hx : StopsAt x stop q) (h64 : stop ≤ 64) (n : Nat) :
    ∀ (p : List Byte) (s : State), s.xret = x → p.length + n = stop → Padding stop q p s →
      ∃ t, stepsTo n s t ∧ Padding stop q (p ++ List.replicate n 0x00#8) t ∧ t.seq = q ∧
        OnlyWrites [.buf, .buflen, .seq, .free] s t := by
  induction n with
  | zero =>
    intro p s _ hn h
    exact ⟨s, rfl, by simpa using h, h.seq.trans (if_pos hn), OnlyWrites.refl _ s⟩
  | succ n ih =>
    intro p s hsx hn h
    obtain ⟨u, hu, hup, huo⟩ := step_fZero (hsx ▸ hx) h (by omega) (by omega)
    obtain ⟨t, ht, htp, htq, hto⟩ := ih (p ++ [0x00#8]) u ((huo .xret (by decide)).trans hsx)
      (by rw [List.length_append, List.length_singleton]; omega) hup
    rw [List.append_assoc, List.singleton_append, ← List.replicate_succ] at htp
    exact ⟨t, ⟨u, hu, ht⟩, htp, htq, huo.trans hto⟩

/-- R141: F.LATCH, with the bit length in terms of the pending bytes. -/
theorem step_fLatch (hp : s.pins = []) (hq : s.seq = seqFLatch) (hh : Holds p s) :
    ∃ u, step s = .next u ∧ u.pins = [] ∧ u.seq = seqFTerm ∧ Holds p u ∧
      u.lenbits = 512#64 * s.nblk + 8#64 * BitVec.ofNat 64 p.length ∧ OnlyWrites [.lenbits, .seq] s u := by
  have hst := step_quiet (i := .fLatch) hp hq rfl
  rw [exec_fLatch] at hst
  refine ⟨_, hst, hp, rfl, hh.congr rfl rfl, ?_, ((OnlyWrites.refl _ s).setLenbits _ (by decide)).setSeq _ (by decide)⟩
  rw [← hh.length, BitVec.ofNat_toNat]; rfl

/-- R142: F.TERM. -/
theorem step_fTerm (hp : s.pins = []) (hq : s.seq = seqFTerm) (hh : Holds p s) (hl : p.length ≤ 63) :
    ∃ u n, step s = .next u ∧ u.pins = [] ∧ Holds (p ++ [0x80#8]) u ∧ u.xret = padTarget (p ++ [0x80#8]).length ∧
      u.seq = padSuccessor u.xret (p ++ [0x80#8]).length n ∧ OnlyWrites [.buf, .buflen, .xret, .seq] s u := by
  have hst := step_quiet (i := .fTerm) hp hq rfl
  rw [exec_fTerm (hh.length.trans_le hl)] at hst
  refine ⟨_, s.free, hst, hp, (hh.append hl terminator).congr rfl rfl, ?_, ?_,
    ((((OnlyWrites.refl _ s).setBuf _ (by decide)).setBuflen _ (by decide)).setXret _ (by decide)).setSeq _ (by decide)⟩
  all_goals rw [List.length_append, List.length_singleton, ← hh.length]; rfl

/-- R140, step 4: with more than 56 bytes the block is filled up, transformed and emptied. -/
theorem reaches_spill (hx : s.xret = .spill) (h : Padding 64 seqXLoad p s) (hlo : 57 ≤ p.length)
    (hhi : p.length ≤ 64) :
    ∃ t, ReachesWithin 90 s t ∧ t.h = transform s.h (p ++ List.replicate (64 - p.length) 0x00#8) ∧
      t.xret = .last ∧ Padding 56 seqFLen [] t ∧ OnlyWrites padFields s t := by
  obtain ⟨u, hu, hup, huq, huo⟩ := stepsTo_fill stopsAt_spill (Nat.le_refl 64) (64 - p.length) p s hx (by omega) h
  obtain ⟨v, hv, hvp, hvh, hvH, hvq, hvo⟩ := stepsTo_transform_quiet hup.quiet huq hup.holds (by simp [hhi])
  have hspill := step_quiet (q := seqFSpill) hvp (hvq.trans (by rw [huo .xret (by decide), hx]; rfl)) rfl
  rw [exec_fSpill] at hspill
  have hsv : OnlyWrites padFields s v := (huo.mono (by decide)).trans (hvo.mono (by decide))
  refine ⟨_, ⟨_, ?_, stepsTo_add hu (stepsTo_add hv (stepsTo_one hspill))⟩, ?_, rfl,
    ⟨hvp, holds_nil hvh.canonical rfl, rfl⟩, ((hsv.setBuflen _ (by decide)).setXret _ (by decide)).setSeq _ (by decide)⟩
  · omega
  · exact hvH.trans (by rw [huo .h (by decide)])

/-- R145: the length field behind 56 bytes. -/
theorem step_fLen (hp : s.pins = []) (hq : s.seq = seqFLen) (hh : Holds p s) (hl : p.length = 56) :
    ∃ u, step s = .next u ∧ u.pins = [] ∧ u.seq = seqXLoad ∧ Holds (p ++ be64 s.lenbits) u ∧
      OnlyWrites [.buf, .buflen, .seq] s u := by
  have hst := step_quiet (i := .fLen) hp hq rfl
  rw [exec_fLen] at hst
  exact ⟨_, hst, hp, rfl, (hh.putLength hl s.lenbits).congr rfl rfl,
    (((OnlyWrites.refl _ s).setBuf _ (by decide)).setBuflen _ (by decide)).setSeq _ (by decide)⟩

/-- R104: the engine is initialised, with nothing driven, and offers the digest d. -/
structure Published (d : Vector Byte 20) (s : State) : Prop where
  quiet : s.pins = []
  idle : s.seq = seqIdle
  empty : Holds [] s
  h : s.h = iv
  nblk : s.nblk = 0
  dvalid : s.dvalid = true
  digest : s.digest = d

/-- R146, R102: F.OUT and E.INIT. -/
theorem stepsTo_publish (hp : s.pins = []) (hq : s.seq = seqFOut) (hh : Holds p s) :
    ∃ t, stepsTo 2 s t ∧ Published (serialise s.h) t ∧ t.faultFlag = s.faultFlag := by
  have hout := step_quiet (i := .fOut) hp hq rfl
  rw [exec_fOut] at hout
  have hinit := step_quiet (i := .eInit) (s := ((s.setDigest (serialise s.h)).setDvalid true).setSeq seqEInit) hp rfl
    rfl
  rw [exec_eInit] at hinit
  exact ⟨_, ⟨_, hout, _, hinit, rfl⟩, ⟨hp, rfl, holds_nil hh.canonical rfl, rfl, rfl, rfl, rfl⟩, rfl⟩

/-- R140, steps 5 to 8: the last block is completed with the length and transformed, the digest is published, and the
engine is initialised. -/
theorem reaches_lastBlock (hx : s.xret = .last) (h : Padding 56 seqFLen p s) (hl : p.length ≤ 56) :
    ∃ t, ReachesWithin 141 s t ∧ Published (serialise (transform s.h (lastBlock p s.lenbits))) t ∧
      t.faultFlag = s.faultFlag := by
  obtain ⟨u, hu, hup, huq, huo⟩ := stepsTo_fill stopsAt_last (by decide) (56 - p.length) p s hx (by omega) h
  have hu56 : (p ++ List.replicate (56 - p.length) 0x00#8).length = 56 := by simp [hl]
  obtain ⟨v, hv, hvp, hvq, hvh, hvo⟩ := step_fLen hup.quiet huq hup.holds hu56
  obtain ⟨w, hw, hwp, hwh, hwH, hwq, hwo⟩ :=
    stepsTo_transform_quiet hvp hvq hvh (by rw [List.length_append, hu56]; rfl)
  have hsv : OnlyWrites [.buf, .buflen, .seq, .free] s v := huo.trans (hvo.mono (by decide))
  have hwout : w.seq = seqFOut := by rw [hwq, hsv .xret (by decide), hx]; rfl
  have hwHs : w.h = transform s.h (lastBlock p s.lenbits) := by
    rw [hwH, hsv .h (by decide), huo .lenbits (by decide)]; rfl
  obtain ⟨t, ht, htpub, htf⟩ := stepsTo_publish hwp hwout hwh
  refine ⟨t, ⟨_, ?_, stepsTo_add hu (stepsTo_add (stepsTo_one hv) (stepsTo_add hw ht))⟩, hwHs ▸ htpub, ?_⟩
  · omega
  · exact (htf.trans (hwo .faultFlag (by decide))).trans (hsv .faultFlag (by decide))

/-- R140, step 4, in both cases: what is left to pad is the last block. -/
theorem reaches_padSpill {n : Nat} (hp : s.pins = []) (hh : Holds p s) (hx : s.xret = padTarget p.length)
    (hs : s.seq = padSuccessor s.xret p.length n) (hl : p.length ≤ 64) :
    ∃ t, ReachesWithin 90 s t ∧ t.h = (padSpill s.h p).1 ∧ t.xret = .last ∧
      Padding 56 seqFLen (padSpill s.h p).2 t ∧ (padSpill s.h p).2.length ≤ 56 ∧ OnlyWrites padFields s t := by
  by_cases h56 : 56 < p.length
  · rw [padTarget_of_gt h56] at hx
    obtain ⟨t, ht, hth, htx, htp, hto⟩ :=
      reaches_spill hx ⟨hp, hh, by rw [hs, hx, stopsAt_spill]⟩ h56 hl
    simp only [padSpill, if_pos h56]
    exact ⟨t, ht, hth, htx, htp, by simp, hto⟩
  · rw [padTarget_of_le (by omega)] at hx
    simp only [padSpill, if_neg h56]
    exact ⟨s, .refl _ s, rfl, hx, ⟨hp, hh, by rw [hs, hx, stopsAt_last]⟩, by omega, .refl _ s⟩

/-! ### The commands -/

/-- The command word c runs from s to a command boundary with the architectural state a. -/
def RunsTo (c : BitVec 10) (s : State) (a : Arch) : Prop :=
  ∃ t, runWord c s = .next (.ready t) ∧ Boundary t ∧ t.arch = a

variable {c : BitVec 10}

/-- R191: a boundary within the longest trace after the acceptance is the one the run finds. -/
theorem runWord_of_reaches {i : Instr} (hs : Boundary s) (hc : decodeCmd c = i) (he : exec i s = .next u)
    (hr : ReachesWithin maxTrace u t) (ht : t.seq = seqIdle) : runWord c s = .next (.ready t) := by
  obtain ⟨k, hk, hut⟩ := hr
  rw [runWord_accept c (cmdReady_of_quiet hs.idle hs.quiet) hs.idle
    (by rw [dropSample_of_quiet hs.quiet, hc]; exact he)]
  exact toBoundary_of_stepsTo hut ((exec_pins he).trans hs.quiet) ht (Nat.le_succ_of_le hk)

/-- R100, R162: an accepted word that only reaches CMDREG. -/
theorem runsTo_of_setCmdreg {i : Instr} (hs : Boundary s) (hc : decodeCmd c = i) {w : BitVec 10}
    (he : exec i s = .next (s.setCmdreg w)) : RunsTo c s s.arch :=
  ⟨s.setCmdreg w, runWord_of_reaches hs hc he (.refl _ _) hs.idle,
    ⟨⟨hs.inv.1, hs.inv.2, hs.inv.3, hs.inv.4, hs.inv.5, hs.inv.6, hs.inv.7⟩, hs.idle, hs.quiet⟩, rfl⟩

/-- A boundary with FAULT = 0, from its parts. -/
theorem boundary_of_holds (hp : t.pins = []) (hq : t.seq = seqIdle) (hh : Holds p t) (hl : p.length ≤ 63)
    (hn : t.nblk.toNat ≤ maxNblk.toNat) (hz : t.nblk = 0 → t.h = iv) (hf : t.faultFlag = false)
    (hd : t.dvalid = true → t.buflen = 0 ∧ t.nblk = 0 ∧ t.h = iv) : Boundary t := by
  have hb : t.buflen.toNat ≤ 63 := hh.length ▸ hl
  refine ⟨⟨hh.canonical, hh.written, by omega, hn, ?_, fun h => .inr ⟨hq, hd h⟩, ?_⟩, hq, hp⟩
  · intro h; rw [hf] at h; cases h
  · exact ⟨.idle, by rw [hq]; rfl, hb, hz⟩

theorem Published.boundary {d : Vector Byte 20} (h : Published d t) (hf : t.faultFlag = false) : Boundary t :=
  boundary_of_holds h.quiet h.idle h.empty (Nat.zero_le _) (by simp [h.nblk]) (fun _ => h.h) hf fun _ =>
    ⟨BitVec.eq_of_toNat_eq h.empty.length, h.nblk, h.h⟩

theorem Published.arch_eq {d : Vector Byte 20} (h : Published d t) (hf : t.faultFlag = false) :
    t.arch = { h := iv, pending := [], nblk := 0, digest := some d, fault := false } := by
  rw [h.empty.arch_eq, h.h, h.nblk, h.dvalid, h.digest, hf]; rfl

/-- R101: RESET. -/
theorem runsTo_reset (hs : Boundary s) {d : Byte} (hc : decodeCmd c = .reset d) : RunsTo c s s.arch.reset := by
  have hinit := step_quiet (i := .eInit) (s := (((s.setCmdreg (cmdWord 0b11#2 d)).setDvalid false).setFault
    false).setSeq seqEInit) hs.quiet rfl rfl
  rw [exec_eInit] at hinit
  refine ⟨_, runWord_of_reaches hs hc (exec_reset s d) ⟨1, by decide, stepsTo_one hinit⟩ rfl, ?_, rfl⟩
  exact boundary_of_holds hs.quiet rfl (holds_nil hs.inv.canonical rfl) (by simp) (Nat.zero_le _) (fun _ => rfl) rfl
    (by simp)

/-- What the invariant says at a command boundary (R25, items 1 and 3). -/
theorem Boundary.position (hs : Boundary s) : s.buflen.toNat ≤ 63 ∧ (s.nblk = 0 → s.h = iv) := by
  obtain ⟨i, hi, hp⟩ := hs.inv.position
  rw [hs.idle, decodeSeqFields_idle] at hi
  cases hi
  exact hp

theorem arch_pending_length (s : State) : s.arch.pending.length = s.buflen.toNat := by simp [State.arch]

/-- R160: the length test reads the architectural state. -/
theorem lengthExhausted_iff_arch (s : State) :
    s.lengthExhausted = true ↔ s.arch.nblk = maxNblk ∧ s.arch.pending.length = 63 := by
  rw [arch_pending_length]; simp [State.lengthExhausted, State.arch]

@[simp] theorem cmdData_cmdWord (op : BitVec 2) (d : Byte) : cmdData (cmdWord op d) = d := by
  unfold cmdData cmdWord
  exact BitVec.extractLsb'_append_eq_right

/-! #### UPDATE -/

variable {a : Arch} {x : Byte}

theorem Arch.update_ignored (hf : a.fault = true) : a.update x = a := by simp [Arch.update, hf]

theorem Arch.update_exhausted (hf : a.fault = false) (hl : a.nblk = maxNblk ∧ a.pending.length = 63) :
    a.update x = { a with digest := none, fault := true } := by simp [Arch.update, hf, hl]

theorem Arch.update_room (hf : a.fault = false) (hp : a.pending.length < 63) :
    a.update x = { a with pending := a.pending ++ [x], digest := none } := by
  simp [Arch.update, hf, show a.pending.length ≠ 63 by omega]

theorem Arch.update_full (hf : a.fault = false) (hn : a.nblk ≠ maxNblk) (hp : a.pending.length = 63) :
    a.update x =
      { a with h := transform a.h (a.pending ++ [x]), pending := [], nblk := a.nblk + 1, digest := none } := by
  simp [Arch.update, hf, hn, hp]

/-- R161: the UPDATE that would be byte number 2^61. -/
theorem runsTo_update_exhausted (hs : Boundary s) (hc : decodeCmd c = .update x) (hf : s.faultFlag = false)
    (hl : s.lengthExhausted = true) : RunsTo c s (s.arch.update x) := by
  have hla := (lengthExhausted_iff_arch s).1 hl
  refine ⟨_, runWord_of_reaches hs hc (exec_update_fault x hf hl) (.refl _ _) hs.idle, ?_, ?_⟩
  · exact ⟨⟨hs.inv.canonical, hs.inv.written, hs.inv.buflenBound, hs.inv.nblkBound,
      fun _ => ⟨hs.idle, rfl, hla.1, (arch_pending_length s).symm.trans hla.2⟩, fun h => absurd h Bool.false_ne_true,
      hs.inv.position⟩, hs.idle, hs.quiet⟩
  · rw [Arch.update_exhausted hf hla]; rfl

/-- R110, R75: the acceptance of an UPDATE that is neither ignored nor refused. -/
theorem exec_update_accepted (x : Byte) (hs : Boundary s) (hf : s.faultFlag = false)
    (hl : s.lengthExhausted = false) :
    ∃ u, exec (.update x) s = .next u ∧ u.pins = [] ∧ u.seq = seqBAppend ∧ u.cmdByte = x ∧ u.dvalid = false ∧
      Holds s.arch.pending u ∧ OnlyWrites [.cmdreg, .dvalid, .seq] s u :=
  ⟨_, exec_update_append x hf hl, hs.quiet, rfl, cmdData_cmdWord 0b01#2 x, rfl,
    hs.inv.holds.congr rfl rfl,
    (((OnlyWrites.refl _ s).setCmdreg _ (by decide)).setDvalid _ (by decide)).setSeq _ (by decide)⟩

/-- R111: the append that leaves room in the block. -/
theorem step_bAppend_room (hp : s.pins = []) (hq : s.seq = seqBAppend) (hh : Holds p s) (hl : p.length < 63) :
    ∃ u, step s = .next u ∧ u.pins = [] ∧ u.seq = seqIdle ∧ Holds (p ++ [s.cmdByte]) u ∧
      OnlyWrites [.buf, .buflen, .seq] s u := by
  have hst := step_quiet (i := .bAppend) hp hq rfl
  rw [exec_bAppend_room (hh.length.trans_lt hl)] at hst
  exact ⟨_, hst, hp, rfl, (hh.append (Nat.le_of_lt hl) s.cmdByte).congr rfl rfl,
    (((OnlyWrites.refl _ s).setBuf _ (by decide)).setBuflen _ (by decide)).setSeq _ (by decide)⟩

/-- R111: the append that fills the block. -/
theorem step_bAppend_full (hp : s.pins = []) (hq : s.seq = seqBAppend) (hh : Holds p s) (hl : p.length = 63) :
    ∃ u, step s = .next u ∧ u.pins = [] ∧ u.seq = seqXLoad ∧ u.xret = .upd ∧ Holds (p ++ [s.cmdByte]) u ∧
      OnlyWrites [.buf, .buflen, .xret, .seq] s u := by
  have hst := step_quiet (i := .bAppend) hp hq rfl
  rw [exec_bAppend_full (hh.length.trans hl)] at hst
  exact ⟨_, hst, hp, rfl, rfl, (hh.append (Nat.le_of_eq hl) s.cmdByte).congr rfl rfl,
    ((((OnlyWrites.refl _ s).setBuf _ (by decide)).setBuflen _ (by decide)).setXret _ (by decide)).setSeq _ (by decide)⟩

/-- R111: the UPDATE that leaves room in the block. -/
theorem runsTo_update_room (hs : Boundary s) (hc : decodeCmd c = .update x) (hf : s.faultFlag = false)
    (hb : s.buflen.toNat < 63) : RunsTo c s (s.arch.update x) := by
  have hl : s.lengthExhausted = false := by
    rw [Bool.eq_false_iff, ne_eq, lengthExhausted_iff]; omega
  have hp : s.arch.pending.length < 63 := (arch_pending_length s).symm ▸ hb
  obtain ⟨u, he, hup, huq, rfl, hud, huh, huo⟩ := exec_update_accepted x hs hf hl
  obtain ⟨t, ht, htp, htq, hth, hto⟩ := step_bAppend_room hup huq huh hp
  have hst : OnlyWrites [.cmdreg, .dvalid, .seq, .buf, .buflen] s t :=
    (huo.mono (by decide)).trans (hto.mono (by decide))
  have htH : t.h = s.h := hst .h (by decide)
  have htn : t.nblk = s.nblk := hst .nblk (by decide)
  have htf : t.faultFlag = false := (hst .faultFlag (by decide)).trans hf
  have htd : t.dvalid = false := (hto .dvalid (by decide)).trans hud
  refine ⟨t, runWord_of_reaches hs hc he ⟨1, by decide, stepsTo_one ht⟩ htq, ?_, ?_⟩
  · exact boundary_of_holds htp htq hth (by simpa using hp) (htn ▸ hs.inv.nblkBound)
      (fun h => htH.trans (hs.position.2 (htn.symm.trans h))) htf (by simp [htd])
  · rw [Arch.update_room hf hp, hth.arch_eq, htH, htn, htf, htd]; simp [State.arch, hf]

/-- R24: below the bound the block counter does not wrap. -/
theorem nblk_succ (hb : s.nblk.toNat ≤ maxNblk.toNat) (hn : s.nblk ≠ maxNblk) :
    (s.nblk + 1).toNat ≤ maxNblk.toNat ∧ s.nblk + 1 ≠ 0 := by
  have hm : maxNblk.toNat = 2 ^ 55 - 1 := by decide
  have hlt : s.nblk.toNat ≠ maxNblk.toNat := fun h => hn (BitVec.eq_of_toNat_eq h)
  have hs : (s.nblk + 1).toNat = s.nblk.toNat + 1 := by
    rw [BitVec.toNat_add, show (1 : DWord).toNat = 1 from rfl]; omega
  exact ⟨by omega, fun h => by rw [h] at hs; cases hs⟩

/-- R111, R112: the UPDATE that completes a block. -/
theorem runsTo_update_full (hs : Boundary s) (hc : decodeCmd c = .update x) (hf : s.faultFlag = false)
    (hl : s.lengthExhausted = false) (hb : s.buflen.toNat = 63) : RunsTo c s (s.arch.update x) := by
  have hp : s.arch.pending.length = 63 := (arch_pending_length s).trans hb
  have hn : s.nblk ≠ maxNblk := fun h => by
    rw [(lengthExhausted_iff_arch s).2 ⟨h, hp⟩] at hl; cases hl
  obtain ⟨hle, hne⟩ := nblk_succ hs.inv.nblkBound hn
  obtain ⟨u, he, hup, huq, rfl, hud, huh, huo⟩ := exec_update_accepted x hs hf hl
  obtain ⟨v, hv, hvp, hvq, hvx, hvh, hvo⟩ := step_bAppend_full hup huq huh hp
  obtain ⟨w, hw, hwp, hwh, hwH, hwq, hwo⟩ := stepsTo_transform_quiet hvp hvq hvh (by simp [hp])
  have hret := step_quiet (q := seqBRetire) hwp (hwq.trans (by rw [hvx]; rfl)) rfl
  rw [exec_bRetire] at hret
  have hsv : OnlyWrites [.cmdreg, .dvalid, .seq, .buf, .buflen, .xret] s v :=
    (huo.mono (by decide)).trans (hvo.mono (by decide))
  have hvs : v.h = s.h := hsv .h (by decide)
  have hwn : w.nblk = s.nblk := (hwo .nblk (by decide)).trans (hsv .nblk (by decide))
  have hwf : w.faultFlag = false := ((hwo .faultFlag (by decide)).trans (hsv .faultFlag (by decide))).trans hf
  have hwd : w.dvalid = false := ((hwo .dvalid (by decide)).trans (hvo .dvalid (by decide))).trans hud
  have hnil : Holds [] (((w.setNblk (w.nblk + 1)).setBuflen 0).setSeq seqIdle) := holds_nil hwh.canonical rfl
  refine ⟨_, runWord_of_reaches hs hc he
    ⟨84, by decide, stepsTo_add (stepsTo_one hv) (stepsTo_add hw (stepsTo_one hret))⟩ rfl, ?_, ?_⟩
  · exact boundary_of_holds hwp rfl hnil (Nat.zero_le _) (hwn ▸ hle) (fun h => absurd (hwn ▸ h) hne) hwf
      (by simp [hwd])
  · rw [Arch.update_full hf hn hp, hnil.arch_eq]
    simp [hwH, hwn, hwf, hwd, hvs, State.arch, hf]

/-! #### FINALIZE -/

theorem Arch.finalize_ignored (hf : a.fault = true) : a.finalize = a := by simp [Arch.finalize, hf]

theorem Arch.finalize_eq (hf : a.fault = false) :
    a.finalize =
      { h := iv, pending := [], nblk := 0, fault := false
        digest := some (serialise (transform (padSpill a.h (a.pending ++ [0x80#8])).1
          (lastBlock (padSpill a.h (a.pending ++ [0x80#8])).2
            (512#64 * a.nblk + 8#64 * BitVec.ofNat 64 a.pending.length)))) } := by
  simp [Arch.finalize, hf]

/-- R140, R75: the acceptance of a FINALIZE that is not ignored. -/
theorem exec_finalize_accepted (x : Byte) (hs : Boundary s) (hf : s.faultFlag = false) :
    ∃ u, exec (.finalize x) s = .next u ∧ u.pins = [] ∧ u.seq = seqFLatch ∧ Holds s.arch.pending u ∧
      OnlyWrites [.cmdreg, .dvalid, .seq] s u :=
  ⟨_, exec_finalize_latch x hf, hs.quiet, rfl, hs.inv.holds.congr rfl rfl,
    (((OnlyWrites.refl _ s).setCmdreg _ (by decide)).setDvalid _ (by decide)).setSeq _ (by decide)⟩

/-- R140: the FINALIZE that is not ignored. -/
theorem runsTo_finalize_accepted (hs : Boundary s) (hc : decodeCmd c = .finalize x) (hf : s.faultFlag = false) :
    RunsTo c s s.arch.finalize := by
  have hl : s.arch.pending.length ≤ 63 := (arch_pending_length s).symm ▸ hs.position.1
  obtain ⟨u, he, hup, huq, huh, huo⟩ := exec_finalize_accepted x hs hf
  obtain ⟨v, hv, hvp, hvq, hvh, hvl, hvo⟩ := step_fLatch hup huq huh
  obtain ⟨w, n, hw, hwp, hwh, hwx, hwq, hwo⟩ := step_fTerm hvp hvq hvh hl
  obtain ⟨y, hy, hyH, hyx, hyp, hyl, hyo⟩ := reaches_padSpill hwp hwh hwx hwq
    (by rw [List.length_append, List.length_singleton]; omega)
  obtain ⟨t, ht, htpub, htf⟩ := reaches_lastBlock hyx hyp hyl
  have hsw : OnlyWrites [.cmdreg, .dvalid, .lenbits, .buf, .buflen, .xret, .seq] s w :=
    ((huo.mono (by decide)).trans (hvo.mono (by decide))).trans (hwo.mono (by decide))
  have hwH : w.h = s.h := hsw .h (by decide)
  have htf : t.faultFlag = false :=
    ((htf.trans (hyo .faultFlag (by decide))).trans (hsw .faultFlag (by decide))).trans hf
  have hlen : y.lenbits = 512#64 * s.nblk + 8#64 * BitVec.ofNat 64 s.arch.pending.length := by
    rw [hyo .lenbits (by decide), hwo .lenbits (by decide), hvl, huo .nblk (by decide)]
  have htrace : ReachesWithin (1 + 1 + (90 + 141)) u t :=
    ((ReachesWithin.of_step hv).trans (.of_step hw)).trans (hy.trans ht)
  refine ⟨t, runWord_of_reaches hs hc he htrace htpub.idle, htpub.boundary htf, ?_⟩
  rw [Arch.finalize_eq hf, htpub.arch_eq htf, hyH, hlen, hwH]
  rfl

/-- R72: the word's meaning and its command-level transition, row by row. -/
theorem command_cases (c : BitVec 10) :
    (decodeCmd c = .nop (cmdData c) ∧ ∀ a, Arch.accept c a = a) ∨
    (decodeCmd c = .update (cmdData c) ∧ ∀ a, Arch.accept c a = a.update (cmdData c)) ∨
    (decodeCmd c = .finalize (cmdData c) ∧ ∀ a, Arch.accept c a = a.finalize) ∨
    (decodeCmd c = .reset (cmdData c) ∧ ∀ a, Arch.accept c a = a.reset) := by
  have hop : (cmdOp c).toNat = 0 ∨ (cmdOp c).toNat = 1 ∨ (cmdOp c).toNat = 2 ∨ (cmdOp c).toNat = 3 := by
    have := (cmdOp c).isLt
    omega
  rcases hop with h | h | h | h
  · exact .inl ⟨by simp only [decodeCmd, h], fun a => by simp only [Arch.accept, h]⟩
  · exact .inr (.inl ⟨by simp only [decodeCmd, h], fun a => by simp only [Arch.accept, h]⟩)
  · exact .inr (.inr (.inl ⟨by simp only [decodeCmd, h], fun a => by simp only [Arch.accept, h]⟩))
  · exact .inr (.inr (.inr ⟨by simp only [decodeCmd, h], fun a => by simp only [Arch.accept, h]⟩))

/-- R140, R162: FINALIZE, ignored or not. -/
theorem runsTo_finalize (hs : Boundary s) (hc : decodeCmd c = .finalize x) : RunsTo c s s.arch.finalize := by
  cases hf : s.faultFlag with
  | true =>
    rw [Arch.finalize_ignored hf]
    exact runsTo_of_setCmdreg hs hc (exec_finalize_ignored x hf)
  | false => exact runsTo_finalize_accepted hs hc hf

/-- R110 in all its cases. -/
theorem runsTo_update (hs : Boundary s) (hc : decodeCmd c = .update x) : RunsTo c s (s.arch.update x) := by
  cases hf : s.faultFlag with
  | true =>
    rw [Arch.update_ignored hf]
    exact runsTo_of_setCmdreg hs hc (exec_update_ignored x hf)
  | false =>
    cases hl : s.lengthExhausted with
    | true => exact runsTo_update_exhausted hs hc hf hl
    | false =>
      rcases Nat.lt_or_eq_of_le hs.position.1 with hb | hb
      · exact runsTo_update_room hs hc hf hb
      · exact runsTo_update_full hs hc hf hl hb

/-- Settles O48, command by command: each lemma runs its trace of R80 to the next boundary. -/
theorem acceptedCommandMakesItsTransition : Obligations.AcceptedCommandMakesItsTransition := by
  unfold Obligations.AcceptedCommandMakesItsTransition
  intro s c hs
  change RunsTo c s _
  rcases command_cases c with ⟨hc, ha⟩ | ⟨hc, ha⟩ | ⟨hc, ha⟩ | ⟨hc, ha⟩ <;> rw [ha]
  · exact runsTo_of_setCmdreg hs hc (exec_nop s _)
  · exact runsTo_update hs hc
  · exact runsTo_finalize hs hc
  · exact runsTo_reset hs hc

end Sys2Proof.Machine
end

section
/-! SUPPORT. The CMD format (spec/30_encoding.md R72, R74): a word is its two fields, the four rows of the command table
are told apart by `op` alone, and the data field reaches CMDREG only. -/

namespace Sys2Proof.Machine

/-! ### A command word is its two fields -/

@[simp] theorem cmdOp_cmdWord (op : BitVec 2) (d : Byte) : cmdOp (cmdWord op d) = op := by
  unfold cmdOp cmdWord
  exact BitVec.extractLsb'_append_eq_left

@[simp] theorem cmdWord_cmdOp_cmdData (w : BitVec 10) : cmdWord (cmdOp w) (cmdData w) = w := by
  unfold cmdWord cmdOp cmdData
  exact (BitVec.extractLsb'_append_extractLsb'_eq_extractLsb' (by rfl)).trans BitVec.extractLsb'_eq_self

/-- The four values of the field `op`. -/
theorem cmdOp_cases (op : BitVec 2) : op = 0b00#2 ∨ op = 0b01#2 ∨ op = 0b10#2 ∨ op = 0b11#2 := by
  revert op; decide

/-- R72, R74: row by row, the decoded command encodes into the word it came from. -/
theorem encode_decodeCmd_cmdWord (op : BitVec 2) (d : Byte) :
    encode (decodeCmd (cmdWord op d)) = .cmd (cmdWord op d) := by
  rcases cmdOp_cases op with rfl | rfl | rfl | rfl <;> simp only [decodeCmd, cmdOp_cmdWord, cmdData_cmdWord] <;> rfl

/-- The mnemonic is read off `op`. -/
theorem decodeCmd_mnemonic_eq (op : BitVec 2) (d e : Byte) :
    (decodeCmd (cmdWord op d)).mnemonic = (decodeCmd (cmdWord op e)).mnemonic := by
  rcases cmdOp_cases op with rfl | rfl | rfl | rfl <;> simp only [decodeCmd, cmdOp_cmdWord] <;> rfl

/-! ### The rows of the command table -/

/-- The row of the command `op`: its word with data 0x00 under the mask of the field `op`. -/
def commandRow (op : BitVec 2) : OpcodeRow where
  format := .cmd
  mnemonic := (decodeCmd (cmdWord op 0x00#8)).mnemonic
  matchBits := (cmdWord op 0x00#8).setWidth 11
  mask := (cmdWord 0b11#2 0x00#8).setWidth 11

/-- R72's table: the rows of the CMD format are the four command rows. -/
theorem commandRows : opcodeTable.filter (fun y => y.format = .cmd) =
    [commandRow 0b00#2, commandRow 0b01#2, commandRow 0b10#2, commandRow 0b11#2] := by
  decide

theorem commandRow_mem (op : BitVec 2) : commandRow op ∈ opcodeTable := by
  have h : commandRow op ∈ opcodeTable.filter (fun y => y.format = .cmd) := by
    rw [commandRows]
    rcases cmdOp_cases op with rfl | rfl | rfl | rfl <;> simp
  exact (List.mem_filter.1 h).1

theorem eq_commandRow {y : OpcodeRow} (hy : y ∈ opcodeTable) (hf : y.format = .cmd) : ∃ op, y = commandRow op := by
  have h : y ∈ opcodeTable.filter (fun y => y.format = .cmd) := List.mem_filter.2 ⟨hy, decide_eq_true hf⟩
  rw [commandRows] at h
  simp only [List.mem_cons, List.not_mem_nil, or_false] at h
  rcases h with h | h | h | h <;> exact ⟨_, h⟩

/-- The mask of a command row keeps `op` and drops the data. -/
theorem cmdWord_and_mask (op : BitVec 2) (d : Byte) :
    (cmdWord op d).setWidth 11 &&& (cmdWord 0b11#2 0x00#8).setWidth 11 = (cmdWord op 0x00#8).setWidth 11 := by
  have hop : op &&& 0b11#2 = op := BitVec.and_allOnes
  rw [← BitVec.setWidth_and]
  unfold cmdWord
  rw [BitVec.and_append, hop, BitVec.and_zero]

/-- Two command rows with the same match bits are one row. -/
theorem commandRow_matchBits_inj {a b : BitVec 2} (h : (commandRow a).matchBits = (commandRow b).matchBits) :
    a = b := by
  have hw : cmdWord a 0x00#8 = cmdWord b 0x00#8 := by
    simpa [commandRow] using congrArg (BitVec.setWidth 10) h
  simpa using congrArg cmdOp hw

/-- R72: a word selects the row of its own `op`, whatever its data. -/
theorem commandRow_selects_iff (a op : BitVec 2) (d : Byte) :
    (commandRow a).selects .cmd ((cmdWord op d).setWidth 11) = true ↔ a = op := by
  simp only [OpcodeRow.selects, commandRow, cmdWord_and_mask, decide_true, Bool.true_and, decide_eq_true_eq]
  exact ⟨fun h => (commandRow_matchBits_inj h).symm, fun h => h ▸ rfl⟩

/-- Settles O3: the row is the command row of the word's `op`. -/
theorem commandWordSelectsOneRow : Obligations.CommandWordSelectsOneRow := by
  unfold Obligations.CommandWordSelectsOneRow
  intro w
  obtain ⟨op, d, rfl⟩ : ∃ op d, w = cmdWord op d := ⟨_, _, (cmdWord_cmdOp_cmdData w).symm⟩
  refine ⟨commandRow op, commandRow_mem op, (commandRow_selects_iff op op d).2 rfl, ?_,
    decodeCmd_mnemonic_eq op _ d, encode_decodeCmd_cmdWord op d⟩
  intro y hy hs
  have hf : y.format = .cmd := by
    simp only [OpcodeRow.selects, Bool.and_eq_true, decide_eq_true_eq] at hs
    exact hs.1
  obtain ⟨a, rfl⟩ := eq_commandRow hy hf
  rw [(commandRow_selects_iff a op d).1 hs]

/-! ### The ignored data field -/

/-- Two meanings whose results are one state but for CMDREG. -/
theorem exec_pair_onlyWrites_cmdreg {i j : Instr} {s t : State} {w : BitVec 10} (hi : exec i s = .next t)
    (hj : exec j s = .next (t.setCmdreg w)) :
    ∃ t u, exec i s = .next t ∧ exec j s = .next u ∧ OnlyWrites [.cmdreg] t u :=
  ⟨t, t.setCmdreg w, hi, hj, (OnlyWrites.refl _ t).setCmdreg w (by decide)⟩

/-- Settles O6, command by command: each meaning puts its word in CMDREG and goes on as if the data were another's. -/
theorem ignoredDataFieldChangesNothing : Obligations.IgnoredDataFieldChangesNothing := by
  unfold Obligations.IgnoredDataFieldChangesNothing
  refine ⟨fun w => ⟨decodeCmd w, rfl⟩, rfl, rfl, rfl, fun d e s => ?nop, fun d e s => ?finalize,
    fun d e s => ?reset⟩
  case nop => exact exec_pair_onlyWrites_cmdreg (exec_nop s d) (exec_nop s e)
  case finalize =>
    cases hf : s.faultFlag with
    | true => exact exec_pair_onlyWrites_cmdreg (exec_finalize_ignored d hf) (exec_finalize_ignored e hf)
    | false => exact exec_pair_onlyWrites_cmdreg (exec_finalize_latch d hf) (exec_finalize_latch e hf)
  case reset => exact exec_pair_onlyWrites_cmdreg (exec_reset s d) (exec_reset s e)

end Sys2Proof.Machine
end

section
/-! SUPPORT. NOP, E.INIT and the return to the initial point (spec/40_cmd_reset_nop.md R100, R102, R104). -/

namespace Sys2Proof.Machine

/-- Settles O13: the meaning is the one write of CMDREG. -/
theorem nopOnlyLatchesItsWord : Obligations.NopOnlyLatchesItsWord := by
  unfold Obligations.NopOnlyLatchesItsWord
  refine ⟨fun d => rfl, fun d s => ⟨_, exec_nop s d, setCmdreg_cmdreg s _, ?_⟩⟩
  exact (OnlyWrites.refl _ s).setCmdreg _ (by decide)

/-- Settles O20: the meaning writes the three registers of the initial point and SEQ. -/
theorem engineInitEffect : Obligations.EngineInitEffect := by
  unfold Obligations.EngineInitEffect
  refine ⟨rfl, fun s => ⟨_, exec_eInit s, rfl, rfl, rfl, rfl, ?_⟩⟩
  exact ((((OnlyWrites.refl _ s).setH iv (by decide)).setBuflen 0 (by decide)).setNblk 0 (by decide)).setSeq seqIdle
    (by decide)

/-! ### What the architectural state says of the registers -/

variable {s : State}

theorem buflen_eq_zero_of_arch (h : s.arch.pending = []) : s.buflen = 0 :=
  BitVec.eq_of_toNat_eq (by rw [← arch_pending_length, h]; rfl)

/-- R32: a digest is offered only while DVALID = 1. -/
theorem dvalid_of_arch {d : Vector Byte 20} (h : s.arch.digest = some d) : s.dvalid = true := by
  by_contra hd
  simp [State.arch, hd] at h

/-- R72: op = 0b10 is FINALIZE, whatever its data field. -/
theorem decodeCmd_finalize (d : Byte) : decodeCmd (0b10#2 ++ d) = .finalize d := by
  change decodeCmd (cmdWord 0b10#2 d) = _
  simp only [decodeCmd, cmdOp_cmdWord, cmdData_cmdWord]
  rfl

/-- Settles O50: the accepted FINALIZE runs to the architectural state of R140, whose registers are those of R104. -/
theorem finalizeReinitialises : Obligations.FinalizeReinitialises := by
  unfold Obligations.FinalizeReinitialises
  intro s d hs hf
  obtain ⟨t, hrun, -, harch⟩ := runsTo_finalize_accepted hs (decodeCmd_finalize d) hf
  rw [Arch.finalize_eq hf] at harch
  exact ⟨t, hrun, congrArg Arch.h harch, buflen_eq_zero_of_arch (congrArg Arch.pending harch),
    congrArg Arch.nblk harch, dvalid_of_arch (congrArg Arch.digest harch), congrArg Arch.fault harch⟩

end Sys2Proof.Machine
end

section
/-! SUPPORT. The block transform (spec/42_block_transform.md): what X.LOAD, the X.ROUND variants and X.ADD do to each
field, the bits of the round functions, and the 82 micro-operations together. -/

namespace Sys2Proof.Machine

variable {s : State}

/-! ### X.LOAD -/

/-- R120: with a full buffer no free value is drawn. -/
theorem exec_xLoad_written (h : s.blockWritten = true) :
    exec .xLoad s = .next (((s.setW s.loadBlock).setWork (workOfH s.h)).setSeq (seqXRound 0 0)) := by
  rw [exec_xLoad, h]
  rfl

/-- R52, R63: slot j of the block read is four pending bytes, most significant first. -/
theorem slot_loadBlock {b : Nat → Byte} (hl : s.buflen.toNat = 64) (hc : ∀ k, k < 64 → s.cell k = some (b k))
    {j : Nat} (hj : j < 16) :
    slot s.loadBlock j = b (4 * j) ++ b (4 * j + 1) ++ b (4 * j + 2) ++ b (4 * j + 3) := by
  have hb : ∀ k, k < 64 → s.loadByte k = b k := fun k hk => loadByte_of_cell (hl ▸ hk) (hc k hk)
  rw [State.loadBlock, slot_ofFn _ hj, State.memRead4, hb _ (by omega), hb _ (by omega), hb _ (by omega),
    hb _ (by omega)]
  rfl

/-- Settles O23: every cell read is pending, so each word is formed from the bytes written. -/
theorem loadReadsTheBlockBigEndian : Obligations.LoadReadsTheBlockBigEndian := by
  unfold Obligations.LoadReadsTheBlockBigEndian
  refine ⟨rfl, fun s b hl hc => ?_⟩
  have hw : s.blockWritten = true :=
    blockWritten_of_cells (Nat.le_of_eq hl.symm) fun k hk => by rw [hc k hk]; rfl
  refine ⟨_, exec_xLoad_written hw, fun j hj => slot_loadBlock hl hc hj, rfl, rfl, rfl, rfl, rfl, rfl, ?_⟩
  exact (((OnlyWrites.refl _ s).setW _ (by decide)).setWork _ (by decide)).setSeq _ (by decide)

/-! ### X.ROUND -/

/-- R76: the operand R occupies the low five bits of the word. -/
theorem seqWord_eq_or (uop : BitVec 4) (stage : BitVec 2) (r : BitVec 5) :
    seqWord uop stage r = seqWord uop stage 0#5 ||| r.setWidth 11 := by
  have hr : r.setWidth 11 = 0#6 ++ r := BitVec.setWidth_eq_append (by decide)
  rw [seqWord, seqWord, hr, BitVec.or_append, BitVec.or_zero, BitVec.zero_or]

/-- R78: the successor of a round, with the fields in numbers. -/
theorem roundSuccessor_eq (stage : BitVec 2) (r : BitVec 5) :
    roundSuccessor stage r =
      if r.toNat < 19 then { uop := 0b0101#4, stage := BitVec.ofNat 2 stage.toNat, r := BitVec.ofNat 5 (r.toNat + 1) }
      else if stage.toNat < 3 then { uop := 0b0101#4, stage := BitVec.ofNat 2 (stage.toNat + 1), r := 0 }
      else { uop := 0b0110#4, stage := 0, r := 0 } := by
  simp only [BitVec.ofNat_add, BitVec.ofNat_toNat, BitVec.setWidth_eq]
  rfl

/-- R121, R126: the round body does what a round at its stage and operand is to do, for every f and k. -/
theorem roundBody_effect (stage : BitVec 2) (f : Word → Word → Word → Word) (k : Word) (r : BitVec 5) (s : State) :
    RoundEffect stage.toNat r.toNat (f s.work.b s.work.c s.work.d) k s (s.roundBody stage f k r) where
  a := by
    rw [roundBody_work, ← rotl_eq_rotateLeft (by decide)]
    rfl
  b := by rw [roundBody_work]; rfl
  c := by
    rw [roundBody_work, ← rotl_eq_rotateLeft (by decide)]
    rfl
  d := by rw [roundBody_work]; rfl
  e := by rw [roundBody_work]; rfl
  schedule := fun n hn => by
    rw [roundBody_w]
    exact slot_scheduleStep s.w (roundIndex stage r) hn
  next := by rw [roundBody_seq, roundSuccessor_eq]
  frame := roundBody_onlyWrites stage f k r s

/-- Settles O25: the four variants are one round body with their own stage, f and k. -/
theorem roundEffects : Obligations.RoundEffects := by
  unfold Obligations.RoundEffects
  refine ⟨fun r => ⟨?_, ?_, ?_, ?_⟩, fun r s hr => ?_⟩
  · exact congrArg CodeWord.seq (seqWord_eq_or _ _ r)
  · exact congrArg CodeWord.seq (seqWord_eq_or _ _ r)
  · exact congrArg CodeWord.seq (seqWord_eq_or _ _ r)
  · exact congrArg CodeWord.seq (seqWord_eq_or _ _ r)
  · have hl : roundLegal r = true := decide_eq_true hr
    exact ⟨⟨_, exec_xRoundCh hl, roundBody_effect 0b00#2 fCh kCh r s⟩,
      ⟨_, exec_xRoundPar1 hl, roundBody_effect 0b01#2 fPar kPar1 r s⟩,
      ⟨_, exec_xRoundMaj hl, roundBody_effect 0b10#2 fMaj kMaj r s⟩,
      ⟨_, exec_xRoundPar2 hl, roundBody_effect 0b11#2 fPar kPar2 r s⟩⟩

/-! ### X.ADD -/

/-- Settles O27: each digest word takes a 32-bit sum, and the successor is read off XRET. -/
theorem addFoldsTheWorkingRegisters : Obligations.AddFoldsTheWorkingRegisters := by
  unfold Obligations.AddFoldsTheWorkingRegisters
  refine ⟨rfl, fun s => ⟨_, exec_xAdd s, BitVec.toNat_add .., BitVec.toNat_add .., BitVec.toNat_add ..,
    BitVec.toNat_add .., BitVec.toNat_add .., ?_, ?_, ?_, ?_⟩⟩
  · intro hx; rw [setSeq_seq, hx]; rfl
  · intro hx; rw [setSeq_seq, hx]; rfl
  · intro hx; rw [setSeq_seq, hx]; rfl
  · exact ((OnlyWrites.refl _ s).setH _ (by decide)).setSeq _ (by decide)

/-! ### The round functions, bit by bit -/

/-- R129: stage 0 chooses c or d by the bit of b. -/
theorem fCh_getLsbD (b c d : Word) (n : Nat) :
    (fCh b c d).getLsbD n = if b.getLsbD n then c.getLsbD n else d.getLsbD n := by
  simp only [fCh, BitVec.getLsbD_xor, BitVec.getLsbD_and]
  cases b.getLsbD n <;> simp

/-- R129: stages 1 and 3 take the parity. -/
theorem fPar_getLsbD (b c d : Word) (n : Nat) :
    (fPar b c d).getLsbD n = (b.getLsbD n ^^ c.getLsbD n ^^ d.getLsbD n) := by
  simp only [fPar, BitVec.getLsbD_xor, Bool.xor_assoc]

/-- R129, over one bit position: the majority of three bits is at least two of them. -/
theorem majority_eq_decide (b c d : Bool) :
    ((b && c) || (b && d) || (c && d)) = decide (2 ≤ b.toNat + c.toNat + d.toNat) := by
  revert b c d; decide

/-- R129: stage 2 takes the majority. -/
theorem fMaj_getLsbD (b c d : Word) (n : Nat) :
    (fMaj b c d).getLsbD n =
      decide (2 ≤ (b.getLsbD n).toNat + (c.getLsbD n).toNat + (d.getLsbD n).toNat) := by
  simp only [fMaj, BitVec.getLsbD_or, BitVec.getLsbD_and, majority_eq_decide]

/-- Settles O45: the three tables, one lemma each. -/
theorem roundFunctionTruthTables : Obligations.RoundFunctionTruthTables := by
  unfold Obligations.RoundFunctionTruthTables
  exact fun b c d n => ⟨fCh_getLsbD b c d n, fPar_getLsbD b c d n, fMaj_getLsbD b c d n⟩

/-! ### The whole transform -/

/-- Settles O46: X.LOAD, the 80 rounds by induction along the loop of R131, and X.ADD. -/
theorem transformRunsInEightyTwoSteps : Obligations.TransformRunsInEightyTwoSteps := by
  unfold Obligations.TransformRunsInEightyTwoSteps
  exact fun s hs hl hc hr => stepsTo_transform hs hl hc hr

end Sys2Proof.Machine
end

section
/-! SUPPORT. The micro-operation F.TERM (spec/43_cmd_finalize.md R142). -/

namespace Sys2Proof.Machine

/-- R142, R78: the successor of the terminator by the old BUFLEN n: LAST stops at 56 bytes, SPILL at 64. -/
theorem padSuccessor_padTarget {n : Nat} (free : Nat) (hn : n ≤ 63) :
    padSuccessor (padTarget (n + 1)) (n + 1) free =
      { uop := if n = 55 then 0b1011 else if n = 63 then 0b0100 else 0b1001, stage := 0, r := 0 } := by
  by_cases h : n + 1 ≤ 56
  · have h63 : n ≠ 63 := by omega
    rw [padTarget_of_le h, stopsAt_last]
    by_cases h55 : n = 55 <;> simp [h55, h63] <;> rfl
  · have h55 : n ≠ 55 := by omega
    rw [padTarget_of_gt (by omega), stopsAt_spill]
    by_cases h63 : n = 63 <;> simp [h55, h63] <;> rfl

/-- Settles O29: the meaning is one append, and the two targets stop at 56 and at 64. -/
theorem terminatorEffect : Obligations.TerminatorEffect := by
  unfold Obligations.TerminatorEffect
  refine ⟨rfl, fun s hl => ⟨_, exec_fTerm hl, buflen_succ hl, lookup_append s terminator, rfl,
    padSuccessor_padTarget s.free hl, ?_⟩⟩
  exact ((((OnlyWrites.refl _ s).setBuf _ (by decide)).setBuflen _ (by decide)).setXret _ (by decide)).setSeq _
    (by decide)

end Sys2Proof.Machine
end

section
/-! SUPPORT. The digest of a whole message (spec/43_cmd_finalize.md R147, R148): the blocks of a byte sequence, the
message that UPDATEs absorb (spec/10_state.md R41), the last blocks of Pad(m), and runs of accepted words. -/

namespace Sys2Proof.Machine

/-! ### The blocks of a byte sequence -/

variable {l r m p : List Byte} {n k : Nat}

theorem blocks_one (hl : l.length = 64) : blocks 1 l = [l] := by
  simp [blocks, ← hl]

/-- Bytes behind n whole blocks are in none of the first n. -/
theorem blocks_append_left (h : 64 * n ≤ l.length) : blocks n (l ++ r) = blocks n l := by
  refine List.map_congr_left fun i hi => ?_
  have hi : i < n := List.mem_range.1 hi
  rw [List.drop_append_of_le_length (by omega), List.take_append_of_le_length (by rw [List.length_drop]; omega)]

/-- Behind exactly n blocks the next ones are those of the rest. -/
theorem blocks_add (h : l.length = 64 * n) : blocks (n + k) (l ++ r) = blocks n l ++ blocks k r := by
  rw [← blocks_append_left (r := r) (Nat.le_of_eq h.symm)]
  simp only [blocks, List.range_add, List.map_append, List.map_map]
  congr 1
  refine List.map_congr_left fun i _ => ?_
  have hd : 64 * (n + i) = l.length + 64 * i := by omega
  simp [hd]

/-- Blocks of 64 bytes put together are the blocks of what they make. -/
theorem blocks_flatten {bs : List (List Byte)} (h : ∀ b ∈ bs, b.length = 64) : blocks bs.length bs.flatten = bs := by
  induction bs with
  | nil => rfl
  | cons b bs ih =>
    have hb : b.length = 64 := h b List.mem_cons_self
    rw [List.length_cons, Nat.add_comm, List.flatten_cons, blocks_add (n := 1) hb, blocks_one hb,
      ih fun c hc => h c (List.mem_cons_of_mem _ hc)]
    rfl

theorem chain_append_left (h : 64 * n ≤ l.length) : chain n (l ++ r) = chain n l := by
  rw [chain, chain, blocks_append_left h]

/-- R148: more blocks continue the chain. -/
theorem chain_append_flatten {bs : List (List Byte)} (hl : l.length = 64 * n) (h : ∀ b ∈ bs, b.length = 64) :
    chain (n + bs.length) (l ++ bs.flatten) = bs.foldl transform (chain n l) := by
  rw [chain, blocks_add hl, blocks_flatten h, List.foldl_append, chain]

/-! ### The absorbed message (R41) -/

variable {a : Arch} {x : Byte}

/-- R41: what is absorbed is NBLK whole blocks, chained into H, and the pending bytes. -/
theorem absorbed_iff : Absorbed m a ↔
    ∃ l, m = l ++ a.pending ∧ l.length = 64 * a.nblk.toNat ∧ a.h = chain a.nblk.toNat l := by
  constructor
  · intro ⟨hlen, hpend, hh⟩
    have hl : (m.take (64 * a.nblk.toNat)).length = 64 * a.nblk.toNat := by rw [List.length_take]; omega
    have hm : m = m.take (64 * a.nblk.toNat) ++ a.pending := by rw [hpend, List.take_append_drop]
    exact ⟨_, hm, hl, hh.trans ((congrArg _ hm).trans (chain_append_left (Nat.le_of_eq hl.symm)))⟩
  · rintro ⟨l, rfl, hl, hh⟩
    exact ⟨by rw [List.length_append, hl], by rw [← hl, List.drop_left],
      hh.trans (chain_append_left (Nat.le_of_eq hl.symm)).symm⟩

/-- R41 with R25: the engine has absorbed m and takes further bytes. -/
structure Absorbing (m : List Byte) (a : Arch) : Prop where
  absorbed : Absorbed m a
  room : a.pending.length ≤ 63
  noFault : a.fault = false

/-- R160: the engine that holds 63 bytes of a message short of 2^61 − 1 can count one more block. -/
theorem Absorbing.nblk_succ (h : Absorbing m a) (hp : a.pending.length = 63) (hm : m.length + 1 < 2 ^ 61) :
    a.nblk ≠ maxNblk ∧ (a.nblk + 1).toNat = a.nblk.toNat + 1 := by
  have hlen := h.absorbed.length
  have hmax : maxNblk.toNat = 2 ^ 55 - 1 := by decide
  refine ⟨fun he => ?_, BitVec.toNat_add_of_lt ?_⟩
  · rw [he] at hlen; omega
  · rw [show (1 : DWord).toNat = 1 from rfl]; omega

/-- R41, R110: one UPDATE, with room left in the block or completing it. -/
theorem Absorbing.update (h : Absorbing m a) (hm : m.length + 1 < 2 ^ 61) : Absorbing (m ++ [x]) (a.update x) := by
  obtain ⟨l, rfl, hl, hh⟩ := absorbed_iff.1 h.absorbed
  rw [List.append_assoc]
  rcases Nat.lt_or_eq_of_le h.room with hp | hp
  · rw [Arch.update_room h.noFault hp]
    exact ⟨absorbed_iff.2 ⟨l, rfl, hl, hh⟩, by simpa using hp, h.noFault⟩
  · obtain ⟨hne, hsucc⟩ := h.nblk_succ hp hm
    have hb : (a.pending ++ [x]).length = 64 := by simp [hp]
    rw [Arch.update_full h.noFault hne hp]
    refine ⟨absorbed_iff.2 ⟨l ++ (a.pending ++ [x]), (List.append_nil _).symm, ?_, ?_⟩, Nat.zero_le _, h.noFault⟩
    · rw [hsucc, List.length_append, hl, hb]; omega
    · have hc := chain_append_flatten (bs := [a.pending ++ [x]]) hl (by simpa using hb)
      rw [hsucc, hh]
      simpa using hc.symm

@[simp] theorem accept_updateWord (x : Byte) (a : Arch) : a.accept (updateWord x) = a.update x := by
  simp [Arch.accept, updateWord]

@[simp] theorem accept_finalizeWord (a : Arch) : a.accept finalizeWord = a.finalize := by
  simp [Arch.accept, finalizeWord]

/-- R86, R41: the UPDATEs of a byte sequence absorb it. -/
theorem Absorbing.foldl_updateWords {data : List Byte} (h : Absorbing m a) (hm : (m ++ data).length < 2 ^ 61) :
    Absorbing (m ++ data) ((updateWords data).foldl (fun y c => y.accept c) a) := by
  induction data generalizing m a with
  | nil => rwa [List.append_nil]
  | cons x data ih =>
    have hx : m ++ x :: data = m ++ [x] ++ data := List.append_cons ..
    rw [hx] at hm ⊢
    have hm1 : m.length + 1 < 2 ^ 61 := by simp only [List.length_append, List.length_singleton] at hm; omega
    simpa [updateWords] using ih (h.update (x := x) hm1) hm

/-! ### The padded message (R147) -/

/-- R140, R147: the last blocks, for the pending bytes q with their terminator: two where it leaves no room for the
length. -/
def padBlocks (q : List Byte) (lenbits : DWord) : List (List Byte) :=
  if 56 < q.length then [q ++ List.replicate (64 - q.length) 0x00#8, lastBlock [] lenbits] else [lastBlock q lenbits]

theorem lastBlock_length {q : List Byte} (hq : q.length ≤ 56) (lenbits : DWord) :
    (lastBlock q lenbits).length = 64 := by
  simp only [lastBlock, List.length_append, List.length_replicate, be64_length]
  omega

theorem padBlocks_length {q : List Byte} (hq : q.length ≤ 64) (lenbits : DWord) :
    ∀ b ∈ padBlocks q lenbits, b.length = 64 := by
  unfold padBlocks
  split
  · simp only [List.forall_mem_cons, List.not_mem_nil, false_implies, implies_true, and_true, List.length_append,
      List.length_replicate]
    exact ⟨by omega, lastBlock_length (q := []) (Nat.zero_le 56) lenbits⟩
  · simp [lastBlock_length (q := q) (by omega)]

/-- R140, steps 4 to 6: FINALIZE transforms the last blocks one after another. -/
theorem foldl_padBlocks (h : HWords) (q : List Byte) (lenbits : DWord) :
    (padBlocks q lenbits).foldl transform h = transform (padSpill h q).1 (lastBlock (padSpill h q).2 lenbits) := by
  unfold padBlocks padSpill
  split <;> rfl

/-- R147: behind whole blocks the padding sees the pending bytes alone, but for the length. -/
theorem pad_append (hl : l.length % 64 = 0) (hp : p.length ≤ 63) :
    pad (l ++ p) = l ++ (padBlocks (p ++ [0x80#8]) (BitVec.ofNat 64 (8 * (l ++ p).length))).flatten := by
  have hmod : (l ++ p).length % 64 = p.length := by rw [List.length_append]; omega
  have hq : (p ++ [0x80#8]).length = p.length + 1 := List.length_append
  unfold pad padBlocks
  rw [hmod, hq]
  split
  · next h56 =>
    have hz : (119 - p.length) % 64 = 64 - (p.length + 1) + 56 := by omega
    simp [lastBlock, hz, ← List.replicate_append_replicate]
  · next h56 =>
    have hz : (119 - p.length) % 64 = 56 - (p.length + 1) := by omega
    simp [lastBlock, hz]

/-- R148, R140: the digest of NBLK whole blocks and the pending bytes. -/
theorem sha1_append (hl : l.length = 64 * n) (hp : p.length ≤ 63) :
    sha1 (l ++ p) = serialise ((padBlocks (p ++ [0x80#8]) (BitVec.ofNat 64 (8 * (l ++ p).length))).foldl transform
      (chain n l)) := by
  have hb := padBlocks_length (q := p ++ [0x80#8]) (by simpa using Nat.lt_succ_of_le hp)
    (BitVec.ofNat 64 (8 * (l ++ p).length))
  have hpad := pad_append (l := l) (by omega) hp
  generalize padBlocks _ _ = bs at hb hpad ⊢
  have hlen : (pad (l ++ p)).length / 64 = n + bs.length := by
    rw [hpad, List.length_append, List.length_flatten, List.map_eq_replicate_iff.2 hb, List.sum_replicate,
      smul_eq_mul]
    omega
  rw [sha1, hlen, hpad, chain_append_flatten hl hb]

/-- R141, R147: LENBITS is the bit length of what is absorbed. -/
theorem Absorbed.bits (h : Absorbed m a) :
    512#64 * a.nblk + 8#64 * BitVec.ofNat 64 a.pending.length = BitVec.ofNat 64 (8 * m.length) := by
  apply BitVec.eq_of_toNat_eq
  rw [h.length]
  simp only [BitVec.toNat_add, BitVec.toNat_mul, BitVec.toNat_ofNat]
  omega

/-- R148 at the command level: FINALIZE offers the digest of what is absorbed. -/
theorem Absorbing.finalize_digest (h : Absorbing m a) : a.finalize.digest = some (sha1 m) := by
  obtain ⟨l, hm, hl, hh⟩ := absorbed_iff.1 h.absorbed
  rw [Arch.finalize_eq h.noFault, h.absorbed.bits, ← foldl_padBlocks, hh, hm, sha1_append hl h.room]

/-! ### Runs of accepted words -/

variable {s : State}

/-- R16, R196: with nothing driven a run makes the command-level transitions of its words, one after another. -/
theorem runWords_transitions (ws : List (BitVec 10)) (hs : Boundary s) :
    ∃ t os, runWords ws s = .next { final := .ready t, shown := os } ∧
      t.arch = ws.foldl (fun y c => y.accept c) s.arch := by
  induction ws generalizing s with
  | nil => exact ⟨s, [], runWords_nil s, rfl⟩
  | cons c ws ih =>
    obtain ⟨u, hu, hub, hua⟩ := acceptedCommandMakesItsTransition s c hs
    obtain ⟨t, os, ht, hta⟩ := ih hub
    exact ⟨t, _, runWords_cons_ready hu ht, by rw [hta, hua]; rfl⟩

/-- R18, R103: at the initial lifecycle point nothing is absorbed. -/
theorem Boundary.absorbing_nil (hs : Boundary s) (hf : s.faultFlag = false) (hb : s.buflen = 0) (hn : s.nblk = 0) :
    Absorbing [] s.arch := by
  have hp : s.arch.pending = [] := List.length_eq_zero_iff.1 (by rw [arch_pending_length, hb]; rfl)
  have hnz : s.arch.nblk.toNat = 0 := by change s.nblk.toNat = 0; rw [hn]; rfl
  refine ⟨absorbed_iff.2 ⟨[], by rw [hp]; rfl, by rw [hnz]; rfl, ?_⟩, by rw [hp]; exact Nat.zero_le _, hf⟩
  rw [hnz]
  exact hs.position.2 hn

/-- R31: the digest that the architectural state offers is the register's. -/
theorem digest_of_arch {d : Vector Byte 20} (h : s.arch.digest = some d) : s.digest = d := by
  simpa [State.arch, dvalid_of_arch h] using h

/-- Settles O53: the UPDATEs absorb m, block after block, and FINALIZE transforms the last blocks of Pad(m). -/
theorem engineComputesSha1 : Obligations.EngineComputesSha1 := by
  unfold Obligations.EngineComputesSha1
  intro s m hs hf hb hn hm
  obtain ⟨t, os, hrun, harch⟩ := runWords_transitions (updateWords m ++ [finalizeWord]) hs
  have habs := (hs.absorbing_nil hf hb hn).foldl_updateWords (data := m) hm
  have hd : t.arch.digest = some (sha1 m) := by
    rw [harch, List.foldl_append, List.foldl_cons, List.foldl_nil, accept_finalizeWord]
    exact habs.finalize_digest
  exact ⟨t, os, hrun, dvalid_of_arch hd, digest_of_arch hd⟩

end Sys2Proof.Machine
end

section
/-! SUPPORT. The only exception, LEN_FAULT (spec/60_exceptions.md): its entry (R161) and what the commands do while FAULT
is set (R162). -/

namespace Sys2Proof.Machine

/-- Settles O16: the length test holds, and its branch writes CMDREG and the two flags. -/
theorem lengthFaultEntry : Obligations.LengthFaultEntry := by
  unfold Obligations.LengthFaultEntry
  intro d s hf hn hb
  have hl : s.lengthExhausted = true := (lengthExhausted_iff s).2 ⟨hn, hb⟩
  refine ⟨_, exec_update_fault d hf hl, rfl, rfl, rfl, ?_⟩
  exact (((OnlyWrites.refl _ s).setCmdreg _ (by decide)).setDvalid false (by decide)).setFault true (by decide)

/-- A meaning that is the one write of CMDREG (R100, R162). -/
theorem exec_onlyWrites_cmdreg {i : Instr} {s : State} {w : BitVec 10} (h : exec i s = .next (s.setCmdreg w)) :
    ∃ t, exec i s = .next t ∧ t.cmdreg = w ∧ OnlyWrites [.cmdreg] s t :=
  ⟨_, h, setCmdreg_cmdreg s w, (OnlyWrites.refl _ s).setCmdreg w (by decide)⟩

/-- R101: RESET clears both flags and goes to E.INIT, faulted or not. -/
theorem exec_reset_clears_flags (d : Byte) (s : State) :
    ∃ t, exec (.reset d) s = .next t ∧ t.faultFlag = false ∧ t.dvalid = false ∧ t.seq = seqEInit ∧
      OnlyWrites [.cmdreg, .dvalid, .faultFlag, .seq] s t := by
  refine ⟨_, exec_reset s d, rfl, rfl, rfl, ?_⟩
  exact ((((OnlyWrites.refl _ s).setCmdreg _ (by decide)).setDvalid false (by decide)).setFault false
    (by decide)).setSeq seqEInit (by decide)

/-- Settles O18: FAULT = 1 selects the ignoring branch of UPDATE and FINALIZE, and NOP and RESET do not look at it. -/
theorem faultedEngineIgnoresUpdateAndFinalize : Obligations.FaultedEngineIgnoresUpdateAndFinalize := by
  unfold Obligations.FaultedEngineIgnoresUpdateAndFinalize
  intro d s hf
  exact ⟨exec_onlyWrites_cmdreg (exec_nop s d), exec_reset_clears_flags d s,
    exec_onlyWrites_cmdreg (exec_update_ignored d hf), exec_onlyWrites_cmdreg (exec_finalize_ignored d hf)⟩

end Sys2Proof.Machine
end

section
/-! SUPPORT. The two formats together (spec/30_encoding.md R70 to R79): decoder and encoder are inverse, a sequencer
word is its three fields, the rows of the opcode maps are told apart by their match bits, and the reserved words. -/

namespace Sys2Proof.Machine

/-! ### A sequencer word is its fields -/

/-- R76: the packed fields of a word are the word. -/
theorem seqWord_fields (w : BitVec 11) : seqWord (seqUop w) (seqStage w) (seqR w) = w := by
  unfold seqWord seqUop seqStage seqR
  rw [BitVec.extractLsb'_append_extractLsb'_eq_extractLsb' (by rfl)]
  exact (BitVec.extractLsb'_append_extractLsb'_eq_extractLsb' (by rfl)).trans BitVec.extractLsb'_eq_self

theorem decodeSeq_seqWord (uop : BitVec 4) (stage : BitVec 2) (r : BitVec 5) :
    decodeSeq (seqWord uop stage r) = decodeSeqFields uop stage r :=
  decode_seq_word { uop := uop, stage := stage, r := r }

/-- R77: a legal round operand decodes to the row of its stage. -/
theorem decodeSeqFields_round (stage : BitVec 2) {r : BitVec 5} (h : roundLegal r = true) :
    decodeSeqFields 0b0101#4 stage r = .ok (decodeRound stage r) := by
  have hr : r.toNat ≤ 19 := of_decide_eq_true h
  simp [decodeSeqFields, hr]

/-! ### Decode and encode -/

/-- R70 to R77: an encoded well-formed instruction decodes to itself. -/
theorem decode_encode {i : Instr} (h : i.wf = true) : decode (encode i) = .ok i := by
  cases i with
  | nop | update | finalize | reset =>
    simp only [encode, decode, decodeCmd, cmdOp_cmdWord, cmdData_cmdWord]
    rfl
  | xRoundCh | xRoundPar1 | xRoundMaj | xRoundPar2 =>
    exact (decodeSeq_seqWord _ _ _).trans (decodeSeqFields_round _ h)
  | idle | eInit | bAppend | bRetire | xLoad | xAdd | fLatch | fTerm | fZero | fSpill | fLen | fOut => rfl

/-- R74: every command is well-formed. -/
theorem wf_decodeCmd (w : BitVec 10) : (decodeCmd w).wf = true := by
  rcases decodeCmd_cases w with h | h | h | h <;> rw [h] <;> rfl

/-- R70 to R79: a word that decodes is the encoding of a well-formed instruction. -/
theorem encode_of_decode {c : CodeWord} {i : Instr} (h : decode c = .ok i) : i.wf = true ∧ encode i = c := by
  cases c with
  | cmd w =>
    obtain rfl : decodeCmd w = i := Except.ok.inj h
    have he := encode_decodeCmd_cmdWord (cmdOp w) (cmdData w)
    rw [cmdWord_cmdOp_cmdData] at he
    exact ⟨wf_decodeCmd w, he⟩
  | seq w =>
    obtain ⟨he, hw⟩ := decodeSeqFields_ok (q := Seq.ofWord w) h
    exact ⟨hw, he.trans (congrArg CodeWord.seq (seqWord_fields w))⟩

/-- Settles O2: one direction by the constructors of the instruction, the other by the format of the word. -/
theorem decodeAndEncodeAgree : Obligations.DecodeAndEncodeAgree := by
  unfold Obligations.DecodeAndEncodeAgree
  exact ⟨fun _ => decode_encode, fun _ _ => encode_of_decode⟩

/-- R76: the fields come back out of the word that packs them. -/
theorem ofWord_word (q : Seq) : Seq.ofWord q.word = q := by
  obtain ⟨h1, h2, h3⟩ := seqFields_seqWord q.uop q.stage q.r
  simp only [Seq.ofWord, Seq.word, h1, h2, h3]

/-- R79: two sequencer words that decode to the same micro-operation are one word. -/
theorem seq_eq_of_decode {q p : Seq} {i : Instr} (hq : decodeSeqFields q.uop q.stage q.r = .ok i)
    (hp : decodeSeqFields p.uop p.stage p.r = .ok i) : q = p := by
  have hw : q.word = p.word :=
    CodeWord.seq.inj ((decodeSeqFields_ok hq).1.symm.trans (decodeSeqFields_ok hp).1)
  rw [← ofWord_word q, hw, ofWord_word]

/-- Settles O1: each word is decoded as it stands. -/
theorem writtenWordsDecode : Obligations.WrittenWordsDecode := by
  unfold Obligations.WrittenWordsDecode
  exact ⟨rfl, rfl, rfl, rfl, rfl, rfl, rfl, rfl, rfl⟩

/-! ### The rows of the opcode maps -/

/-- R72, R77: every instruction is encoded into its own row. -/
theorem encodesToItsRow (i : Instr) : Laws.EncodesToItsRow.Statement i := by
  cases i with
  | nop d => exact Laws.EncodesToItsRow.nop d
  | update d => exact Laws.EncodesToItsRow.update d
  | finalize d => exact Laws.EncodesToItsRow.finalize d
  | reset d => exact Laws.EncodesToItsRow.reset d
  | idle => exact Laws.EncodesToItsRow.idle
  | eInit => exact Laws.EncodesToItsRow.eInit
  | bAppend => exact Laws.EncodesToItsRow.bAppend
  | bRetire => exact Laws.EncodesToItsRow.bRetire
  | xLoad => exact Laws.EncodesToItsRow.xLoad
  | xRoundCh r => exact Laws.EncodesToItsRow.xRoundCh r
  | xRoundPar1 r => exact Laws.EncodesToItsRow.xRoundPar1 r
  | xRoundMaj r => exact Laws.EncodesToItsRow.xRoundMaj r
  | xRoundPar2 r => exact Laws.EncodesToItsRow.xRoundPar2 r
  | xAdd => exact Laws.EncodesToItsRow.xAdd
  | fLatch => exact Laws.EncodesToItsRow.fLatch
  | fTerm => exact Laws.EncodesToItsRow.fTerm
  | fZero => exact Laws.EncodesToItsRow.fZero
  | fSpill => exact Laws.EncodesToItsRow.fSpill
  | fLen => exact Laws.EncodesToItsRow.fLen
  | fOut => exact Laws.EncodesToItsRow.fOut

/-- R77: the row into which a sequencer word is encoded. -/
theorem exists_row_of_encode {w : BitVec 11} {i : Instr} (h : encode i = .seq w) :
    ∃ x ∈ opcodeTable, x.selects .seq w = true ∧ x.mnemonic = i.mnemonic := by
  have hrow := encodesToItsRow i
  simp only [Laws.EncodesToItsRow.Statement, Laws.EncodesToItsRow.holds, h, Laws.EncodesToItsRow.codeBits,
    Bool.and_eq_true, decide_eq_true_eq, List.any_eq_true] at hrow
  obtain ⟨hf, x, hx, hs, hm⟩ := hrow
  exact ⟨x, hx, hf ▸ hs, hm⟩

/-- R72, R77: two rows of one format whose match bits agree under both masks are one row. -/
theorem opcodeTable_separated : ∀ x ∈ opcodeTable, ∀ y ∈ opcodeTable, x.format = y.format →
    x.matchBits &&& y.mask = y.matchBits &&& x.mask → x = y := by
  decide +kernel

/-- R72, R77: a word selects no two rows of its format. -/
theorem row_unique {x y : OpcodeRow} {f : Format} {w : BitVec 11} (hx : x ∈ opcodeTable) (hy : y ∈ opcodeTable)
    (hxs : x.selects f w = true) (hys : y.selects f w = true) : x = y := by
  simp only [OpcodeRow.selects, Bool.and_eq_true, decide_eq_true_eq] at hxs hys
  obtain ⟨hxf, hxw⟩ := hxs
  obtain ⟨hyf, hyw⟩ := hys
  refine opcodeTable_separated x hx y hy (hxf.trans hyf.symm) ?_
  rw [← hxw, ← hyw, BitVec.and_assoc, BitVec.and_assoc, BitVec.and_comm x.mask]

/-- Settles O4: the row is that of the word's encoding, and the rows are separated by their match bits. -/
theorem sequencerWordSelectsItsRow : Obligations.SequencerWordSelectsItsRow := by
  unfold Obligations.SequencerWordSelectsItsRow
  intro w i h
  obtain ⟨x, hx, hs, hm⟩ := exists_row_of_encode (encode_of_decode (c := .seq w) h).2
  exact ⟨x, hx, hs, hm, fun y hy hys => row_unique hy hx hys hs⟩

/-! ### The reserved words -/

/-- R77: the UOPs without a row of their own are X.ROUND's and those from 13 on. -/
theorem decodeUop_eq_none_iff (uop : BitVec 4) : decodeUop uop = none ↔ uop = 0b0101#4 ∨ 13 ≤ uop.toNat := by
  revert uop; decide

/-- R79, on the fields. -/
theorem decodeSeqFields_error_iff (uop : BitVec 4) (stage : BitVec 2) (r : BitVec 5) :
    (∃ e, decodeSeqFields uop stage r = .error e) ↔
      13 ≤ uop.toNat ∨ (uop ≠ 0b0101#4 ∧ ¬ (stage = 0 ∧ r = 0)) ∨ (uop = 0b0101#4 ∧ 20 ≤ r.toNat) := by
  unfold decodeSeqFields
  by_cases h5 : uop = 0b0101#4
  · subst h5
    by_cases hr : r.toNat ≤ 19 <;> simp [hr]
    · omega
    · omega
  · have hn := decodeUop_eq_none_iff uop
    cases hd : decodeUop uop with
    | none =>
      have h13 : 13 ≤ uop.toNat := (hn.1 hd).resolve_left h5
      simp [h5, h13]
    | some i =>
      have h13 : ¬ 13 ≤ uop.toNat := fun h => by rw [hn.2 (.inr h)] at hd; cases hd
      by_cases h0 : stage = 0 ∧ r = 0
      · obtain ⟨rfl, rfl⟩ := h0
        simp [h5, h13]
      · simp only [if_neg h5, if_neg h0]
        exact ⟨fun _ => .inr (.inl ⟨h5, h0⟩), fun _ => ⟨_, rfl⟩⟩

/-- R76: STAGE and R together are bits 6:0. -/
theorem seqLow_eq_zero_iff (w : BitVec 11) : (w.extractLsb' 0 7).toNat = 0 ↔ seqStage w = 0 ∧ seqR w = 0 := by
  have h : seqStage w ++ seqR w = w.extractLsb' 0 7 :=
    BitVec.extractLsb'_append_extractLsb'_eq_extractLsb' (start₁ := 0) (len₁ := 5) (by rfl)
  rw [← h, BitVec.toNat_append, ← BitVec.toNat_inj, ← BitVec.toNat_inj]
  simp

/-- Settles O5: the three kinds of R79 are the three errors of the decoder. -/
theorem reservedSequencerWordsAreRejected : Obligations.ReservedSequencerWordsAreRejected := by
  unfold Obligations.ReservedSequencerWordsAreRejected
  intro w
  have h5 : seqUop w = 0b0101#4 ↔ (w.extractLsb' 7 4).toNat = 5 := by rw [← BitVec.toNat_inj]; rfl
  refine (decodeSeqFields_error_iff (seqUop w) (seqStage w) (seqR w)).trans ?_
  rw [← seqLow_eq_zero_iff, ne_eq, h5]
  rfl

end Sys2Proof.Machine
end

section
/-! SUPPORT. The invariant along a step (spec/10_state.md R25, R39; spec/30_encoding.md R80): inside a command a step
answers a state of the invariant that is nearer to the command boundary and draws no free value. -/

namespace Sys2Proof.Machine

variable {s t : State} {i j : Instr} {p : List Byte}

/-! ### How far it is to the command boundary (R80) -/

/-- The longest trace behind X.ADD, by where it returns to. -/
def afterBlock : XRet → Nat
  | .upd => 1
  | .spill => 142
  | .last => 2

/-- The longest trace from where n bytes of a padded block are in BUF and XRET = x. -/
def padLeft : XRet → Nat → Nat
  | .last, n => 141 - n
  | .spill, n => 288 - n
  | .upd, n => 288 - n

/-- The longest trace from the micro-operation i on, itself included. -/
def traceLeft (i : Instr) (s : State) : Nat :=
  match i with
  | .eInit => 1
  | .bAppend => if s.buflen.toNat = 63 then 84 else 1
  | .bRetire => 1
  | .xLoad => 82 + afterBlock s.xret
  | .xRoundCh r => 81 - roundIndex 0 r + afterBlock s.xret
  | .xRoundPar1 r => 81 - roundIndex 1 r + afterBlock s.xret
  | .xRoundMaj r => 81 - roundIndex 2 r + afterBlock s.xret
  | .xRoundPar2 r => 81 - roundIndex 3 r + afterBlock s.xret
  | .xAdd => 1 + afterBlock s.xret
  | .fLatch => 1 + padLeft (padTarget (s.buflen.toNat + 1)) s.buflen.toNat
  | .fTerm => padLeft (padTarget (s.buflen.toNat + 1)) s.buflen.toNat
  | .fZero => padLeft s.xret s.buflen.toNat
  | .fSpill => 142
  | .fLen => 85
  | .fOut => 2
  | .idle | .nop _ | .update _ | .finalize _ | .reset _ => 0

/-- The longest trace from where SEQ stands. -/
def stepsLeft (s : State) : Nat :=
  match decodeSeqFields s.seq.uop s.seq.stage s.seq.r with
  | .ok i => traceLeft i s
  | .error _ => 0

theorem stepsLeft_of_decode (h : decodeSeqFields s.seq.uop s.seq.stage s.seq.r = .ok i) :
    stepsLeft s = traceLeft i s := by
  simp only [stepsLeft, h]

/-- R142: what F.TERM leads to is longest where the terminator is byte 57. -/
theorem padLeft_padTarget_le (n : Nat) : padLeft (padTarget (n + 1)) n ≤ 232 := by
  by_cases hn : n + 1 ≤ 56
  · rw [padTarget_of_le hn]; simp only [padLeft]; omega
  · rw [padTarget_of_gt (by omega)]; simp only [padLeft]; omega

/-- R80: no trace is longer than FINALIZE's with 56 pending bytes. -/
theorem traceLeft_le (h : PositionOk i s) : traceLeft i s ≤ maxTrace := by
  have hx : afterBlock s.xret ≤ 142 := by cases s.xret <;> decide
  have hpad := padLeft_padTarget_le s.buflen.toNat
  cases i with
  | bAppend => simp only [traceLeft, maxTrace]; split <;> omega
  | fLatch | fTerm => simp only [traceLeft, maxTrace]; omega
  | fZero =>
    rcases positionOk_fZero.1 h with ⟨hs, hb⟩ | ⟨hs, hb⟩ <;> simp only [traceLeft, maxTrace, hs, padLeft] <;> omega
  | xLoad | xAdd => simp only [traceLeft, maxTrace]; omega
  | xRoundCh | xRoundPar1 | xRoundMaj | xRoundPar2 => simp only [traceLeft, maxTrace]; omega
  | eInit | bRetire | fSpill | fLen | fOut | idle | nop | update | finalize | reset => exact of_decide_eq_true rfl

/-! ### The positions of the transform and of the padding -/

/-- R77: the four X.ROUND variants are positions of one transform. -/
theorem positionOk_decodeRound (stage : BitVec 2) (r : BitVec 5) (s : State) :
    (PositionOk (decodeRound stage r) s ↔ FullBlock s) ∧
      traceLeft (decodeRound stage r) s = 81 - roundIndex stage r + afterBlock s.xret := by
  rcases cmdOp_cases stage with rfl | rfl | rfl | rfl <;> exact ⟨Iff.rfl, rfl⟩

/-- R78, R121: what stands before round n of a transform, or behind the last, works on a full block. -/
theorem roundSeq_position {n : Nat} (hn : n ≤ 80) :
    ∃ j, decodeSeqFields (roundSeq n).uop (roundSeq n).stage (roundSeq n).r = .ok j ∧
      ∀ s, (PositionOk j s ↔ FullBlock s) ∧ traceLeft j s = 81 - n + afterBlock s.xret := by
  rcases Nat.lt_or_eq_of_le hn with hlt | rfl
  · obtain ⟨st, r, -, rfl, -, -, -, hd⟩ := roundSeq_fields hlt
    exact ⟨_, hd, positionOk_decodeRound st r⟩
  · exact ⟨.xAdd, rfl, fun s => ⟨Iff.rfl, rfl⟩⟩

/-- R78: a legal round and its successor, by the round's number. -/
theorem roundSuccessor_roundSeq (stage : BitVec 2) {r : BitVec 5} (hr : roundLegal r = true) :
    roundIndex stage r < 80 ∧ roundSuccessor stage r = roundSeq (roundIndex stage r + 1) := by
  revert stage r; decide +kernel

/-- R142, R143: n bytes of a padded block are in BUF, with XRET = x. -/
def PadCount (x : XRet) (n : Nat) : Prop := (x = .spill ∧ 57 ≤ n ∧ n ≤ 64) ∨ (x = .last ∧ n ≤ 56)

theorem padCount_padTarget {n : Nat} (hn : n ≤ 64) : PadCount (padTarget n) n := by
  by_cases h : n ≤ 56
  · exact .inr ⟨padTarget_of_le h, h⟩
  · exact .inl ⟨padTarget_of_gt (by omega), by omega, hn⟩

theorem PadCount.le {x : XRet} {n : Nat} (h : PadCount x n) : n ≤ 64 := by
  rcases h with ⟨-, -, h⟩ | ⟨-, h⟩ <;> omega

theorem PadCount.padLeft_lt {x : XRet} {n : Nat} (h : PadCount x (n + 1)) : padLeft x (n + 1) < padLeft x n := by
  rcases h with ⟨rfl, -, h⟩ | ⟨rfl, h⟩ <;> simp only [padLeft] <;> omega

theorem PadCount.no_draws {x : XRet} {n : Nat} (h : PadCount x n) : padDraws x = 0 := by
  rcases h with ⟨rfl, -⟩ | ⟨rfl, -⟩ <;> rfl

/-- R78: what stands behind a padding byte. -/
theorem padSuccessor_position {x : XRet} {n : Nat} (h : PadCount x n) (free : Nat) :
    ∃ j, decodeSeqFields (padSuccessor x n free).uop (padSuccessor x n free).stage (padSuccessor x n free).r = .ok j ∧
      ∀ s : State, s.xret = x → s.buflen.toNat = n → PositionOk j s ∧ traceLeft j s = padLeft x n := by
  rcases h with ⟨rfl, hlo, hhi⟩ | ⟨rfl, hhi⟩
  · rw [stopsAt_spill]
    rcases Nat.lt_or_eq_of_le hhi with hlt | rfl
    · rw [if_neg (Nat.ne_of_lt hlt)]
      exact ⟨.fZero, rfl, fun s hx hb => ⟨positionOk_fZero.2 (.inl ⟨hx, hb ▸ hlo, hb ▸ Nat.le_of_lt_succ hlt⟩),
        by rw [traceLeft, hx, hb]⟩⟩
    · exact ⟨.xLoad, rfl, fun s hx hb => ⟨⟨hb, fun hu => by rw [hx] at hu; cases hu⟩, by rw [traceLeft, hx]; rfl⟩⟩
  · rw [stopsAt_last]
    rcases Nat.lt_or_eq_of_le hhi with hlt | rfl
    · rw [if_neg (Nat.ne_of_lt hlt)]
      exact ⟨.fZero, rfl, fun s hx hb => ⟨positionOk_fZero.2 (.inr ⟨hx, hb ▸ Nat.le_of_lt_succ hlt⟩),
        by rw [traceLeft, hx, hb]⟩⟩
    · exact ⟨.fLen, rfl, fun s hx hb => ⟨⟨hb, hx⟩, rfl⟩⟩

/-! ### One micro-operation inside a command -/

/-- The micro-operation i leads from s to t, in the invariant, without a free value, and nearer to the boundary. -/
structure LeadsTo (i : Instr) (s t : State) : Prop where
  exec : exec i s = .next t
  inv : Inv t
  free : t.free = s.free
  closer : stepsLeft t < traceLeft i s

/-- From the pending bytes and the position of the micro-operation j that follows. -/
theorem LeadsTo.of_holds (he : Machine.exec i s = .next t) (hh : Holds p t) (hl : p.length ≤ 64)
    (hn : t.nblk.toNat ≤ maxNblk.toNat) (hf : t.faultFlag = false) (hd : t.dvalid = false)
    (hj : decodeSeqFields t.seq.uop t.seq.stage t.seq.r = .ok j) (hp : PositionOk j t) (hfree : t.free = s.free)
    (hlt : traceLeft j t < traceLeft i s) : LeadsTo i s t :=
  ⟨he, Inv.of_clear_flags hh.canonical hh.written (hh.length.symm ▸ hl) hn hf hd hj hp, hfree,
    (stepsLeft_of_decode hj).symm ▸ hlt⟩

/-- R39: an append within the buffer leaves at most 64 bytes pending. -/
theorem Inv.holds_append (h : Inv s) (hb : s.buflen.toNat ≤ 63) (b : Byte) :
    Holds (s.arch.pending ++ [b]) ((s.setBuf (Memory.insert s.buf s.buflen.toNat b)).setBuflen (s.buflen + 1)) ∧
      (s.arch.pending ++ [b]).length ≤ 64 := by
  have hl : s.arch.pending.length ≤ 63 := (arch_pending_length s).trans_le hb
  exact ⟨h.holds.append hl b, List.length_append.trans_le (Nat.succ_le_succ hl)⟩

section InCommand

variable (h : Inv s) (hf : s.faultFlag = false) (hd : s.dvalid = false)
include h hf

/-- R102: E.INIT, also with the digest of F.OUT offered. -/
theorem leadsTo_eInit : ∃ t, LeadsTo .eInit s t :=
  ⟨_, exec_eInit s,
    ⟨h.canonical, fun k hk => absurd hk (Nat.not_lt_zero k), Nat.zero_le 64, Nat.zero_le _,
      fun hft => absurd (hf.symm.trans hft) Bool.false_ne_true, fun _ => .inr ⟨rfl, rfl, rfl, rfl⟩,
      .idle, rfl, Nat.zero_le 63, fun _ => rfl⟩,
    rfl, Nat.zero_lt_one⟩

/-- R146: the digest is offered from E.INIT on. -/
theorem leadsTo_fOut : ∃ t, LeadsTo .fOut s t :=
  ⟨_, exec_fOut s,
    ⟨h.canonical, h.written, h.buflenBound, h.nblkBound, fun hft => absurd (hf.symm.trans hft) Bool.false_ne_true,
      fun _ => .inl rfl, .eInit, rfl, trivial⟩, rfl, Nat.one_lt_two⟩

include hd

/-- R111: with room left the command ends, and a full buffer goes to the transform. -/
theorem leadsTo_bAppend (hp : PositionOk .bAppend s) : ∃ t, LeadsTo .bAppend s t := by
  obtain ⟨hb, hz, hx⟩ := hp
  obtain ⟨hh, h64⟩ := h.holds_append hb s.cmdByte
  rcases Nat.lt_or_eq_of_le hb with hlt | heq
  · refine ⟨_, .of_holds (j := .idle) (exec_bAppend_room hlt) (hh.congr rfl rfl) h64 h.nblkBound hf hd rfl
      ⟨?_, hz⟩ rfl ?_⟩
    · exact (buflen_succ hb).trans_le hlt
    · simp only [traceLeft]; split <;> decide
  · have hne : s.nblk.toNat ≠ maxNblk.toNat := fun hn => by
      simp [State.lengthExhausted, BitVec.eq_of_toNat_eq hn, heq] at hx
    refine ⟨_, .of_holds (j := .xLoad) (exec_bAppend_full heq) (hh.congr rfl rfl) h64 h.nblkBound hf hd rfl
      ⟨?_, fun _ => Nat.lt_of_le_of_ne h.nblkBound hne⟩ rfl ?_⟩
    · exact (buflen_succ hb).trans (congrArg Nat.succ heq)
    · simp only [traceLeft, heq]; exact of_decide_eq_true rfl

/-- R112: the block counter stays within its bound, and the boundary is not at the initial point. -/
theorem leadsTo_bRetire (hp : PositionOk .bRetire s) : ∃ t, LeadsTo .bRetire s t := by
  obtain ⟨-, -, hn⟩ := hp
  obtain ⟨hle, hne⟩ := nblk_succ h.nblkBound fun he => absurd hn (he ▸ Nat.lt_irrefl _)
  exact ⟨_, .of_holds (j := .idle) (exec_bRetire s) (holds_nil h.canonical rfl) (Nat.zero_le 64) hle hf hd rfl
    ⟨Nat.zero_le 63, fun hz => absurd hz hne⟩ rfl Nat.zero_lt_one⟩

/-! #### The transform -/

/-- A micro-operation of the transform that writes W, A to E and SEQ leads to round n, or behind the last round. -/
theorem leadsTo_roundSeq {w : Vector Word 16} {x : Working} {n : Nat} (hn : n ≤ 80) (hp : FullBlock s)
    (he : exec i s = .next (((s.setW w).setWork x).setSeq (roundSeq n)))
    (hlt : 81 - n + afterBlock s.xret < traceLeft i s) : ∃ t, LeadsTo i s t := by
  obtain ⟨j, hj, hjs⟩ := roundSeq_position hn
  refine ⟨_, he, h.afterRound hf hd hj ((hjs _).1.2 (((hp.setW w).setWork x).setSeq _)), rfl, ?_⟩
  rw [stepsLeft_of_decode hj, (hjs _).2]
  exact hlt

/-- R120: X.LOAD reads 64 bytes that have been written. -/
theorem leadsTo_xLoad (hp : FullBlock s) : ∃ t, LeadsTo .xLoad s t := by
  have hw : s.blockWritten = true :=
    blockWritten_of_cells (Nat.le_of_eq hp.1.symm) fun k hk => h.written k (hp.1.symm ▸ hk)
  exact leadsTo_roundSeq h hf hd (Nat.zero_le 80) hp (exec_xLoad_written hw)
    (Nat.add_lt_add_right (by decide : 81 < 82) _)

/-- R122 to R126: a round leads to the next position of the transform. -/
theorem leadsTo_round (stage : BitVec 2) {r : BitVec 5} (hr : roundLegal r = true) (hp : FullBlock s) :
    ∃ t, LeadsTo (decodeRound stage r) s t := by
  obtain ⟨hlt, hsucc⟩ := roundSuccessor_roundSeq stage hr
  have he := exec_decodeRound stage hr s
  rw [roundBody_eq, hsucc] at he
  exact leadsTo_roundSeq h hf hd (Nat.succ_le_of_lt hlt) hp he
    (by rw [(positionOk_decodeRound stage r s).2]; omega)

/-- R127, R78: X.ADD returns where XRET says. -/
theorem leadsTo_xAdd (hp : FullBlock s) : ∃ t, LeadsTo .xAdd s t := by
  obtain ⟨h64, hn⟩ := hp
  have hl : s.arch.pending.length ≤ 64 := (arch_pending_length s).trans_le h.buflenBound
  have hh : Holds s.arch.pending ((s.setH (addWork s.h s.work)).setSeq (addSuccessor s.xret)) := h.holds.congr rfl rfl
  have he := exec_xAdd s
  cases hx : s.xret <;> rw [hx] at he hh
  case upd =>
    exact ⟨_, .of_holds (j := .bRetire) he hh hl h.nblkBound hf hd rfl ⟨h64, hx, hn hx⟩ rfl
      (by simp only [traceLeft, hx]; decide)⟩
  case spill =>
    exact ⟨_, .of_holds (j := .fSpill) he hh hl h.nblkBound hf hd rfl ⟨h64, hx⟩ rfl
      (by simp only [traceLeft, hx]; decide)⟩
  case last =>
    exact ⟨_, .of_holds (j := .fOut) he hh hl h.nblkBound hf hd rfl ⟨h64, hx⟩ rfl
      (by simp only [traceLeft, hx]; decide)⟩

/-! #### The padding -/

/-- R141: the pending bytes are as they were. -/
theorem leadsTo_fLatch (hp : PositionOk .fLatch s) : ∃ t, LeadsTo .fLatch s t :=
  ⟨_, .of_holds (j := .fTerm) (exec_fLatch s) (h.holds.congr rfl rfl)
    ((arch_pending_length s).trans_le h.buflenBound) h.nblkBound hf hd rfl hp rfl
    (Nat.lt_add_of_pos_left Nat.zero_lt_one)⟩

/-- R142: the terminator, behind at most 63 bytes. -/
theorem leadsTo_fTerm (hp : PositionOk .fTerm s) : ∃ t, LeadsTo .fTerm s t := by
  have hc : PadCount (padTarget (s.buflen.toNat + 1)) (s.buflen.toNat + 1) := padCount_padTarget (Nat.succ_le_succ hp)
  obtain ⟨hh, h64⟩ := h.holds_append hp terminator
  obtain ⟨j, hj, hjs⟩ := padSuccessor_position hc s.free
  refine ⟨_, .of_holds (exec_fTerm hp) (hh.congr rfl rfl) h64 h.nblkBound hf hd hj (hjs _ rfl (buflen_succ hp)).1
    rfl ?_⟩
  rw [(hjs _ rfl (buflen_succ hp)).2]
  exact hc.padLeft_lt

/-- R143: a zero byte, within the counts at which F.ZERO stands. -/
theorem leadsTo_fZero (hp : PositionOk .fZero s) : ∃ t, LeadsTo .fZero s t := by
  have hc : PadCount s.xret (s.buflen.toNat + 1) :=
    (positionOk_fZero.1 hp).imp (fun ⟨hx, _, _⟩ => ⟨hx, by omega, by omega⟩) fun ⟨hx, _⟩ => ⟨hx, by omega⟩
  have hb : s.buflen.toNat ≤ 63 := Nat.le_of_succ_le_succ hc.le
  obtain ⟨hh, h64⟩ := h.holds_append hb fillByte
  obtain ⟨j, hj, hjs⟩ := padSuccessor_position hc s.free
  refine ⟨_, .of_holds (exec_fZero hb) (hh.congr rfl rfl) h64 h.nblkBound hf hd hj (hjs _ (by rfl) (buflen_succ hb)).1
    ?_ ?_⟩
  · rw [hc.no_draws]; rfl
  · rw [(hjs _ (by rfl) (buflen_succ hb)).2]; exact hc.padLeft_lt

/-- R144: the buffer is empty, and the last block is padded from its start. -/
theorem leadsTo_fSpill : ∃ t, LeadsTo .fSpill s t :=
  ⟨_, .of_holds (j := .fZero) (exec_fSpill s) (holds_nil h.canonical rfl) (Nat.zero_le 64) h.nblkBound hf hd rfl
    (positionOk_fZero.2 (.inr ⟨rfl, Nat.zero_le 55⟩)) rfl (Nat.lt_succ_self 141)⟩

/-- R145: the length field completes the block. -/
theorem leadsTo_fLen (hp : PositionOk .fLen s) : ∃ t, LeadsTo .fLen s t := by
  obtain ⟨h56, hx⟩ := hp
  have hl : s.arch.pending.length = 56 := (arch_pending_length s).trans h56
  refine ⟨_, .of_holds (j := .xLoad) (exec_fLen s) ((h.holds.putLength hl s.lenbits).congr rfl rfl) ?_ h.nblkBound hf hd
    rfl ⟨rfl, fun hu => ?_⟩ rfl ?_⟩
  · rw [List.length_append, hl]; rfl
  · exact absurd (hx.symm.trans hu) (by decide)
  · simp only [traceLeft, setSeq_xret, setBuflen_xret, setBuf_xret, hx]; decide

end InCommand

/-- R77, R80: inside a command every micro-operation leads on. -/
theorem exists_leadsTo (h : Inv s) (hs : s.seq ≠ seqIdle) :
    ∃ i t, decodeSeqFields s.seq.uop s.seq.stage s.seq.r = .ok i ∧ LeadsTo i s t := by
  obtain ⟨i, hi, hp⟩ := h.position
  have hf := h.fault_false hs
  have hd : i ≠ .eInit → s.dvalid = false := fun hne =>
    h.dvalid_false (seq_ne_of_decode hi fun he => hne (Except.ok.inj he).symm) hs
  have hr := (decodeSeqFields_ok hi).2
  refine ⟨i, (?_ : ∃ t, LeadsTo i s t).imp fun t ht => ⟨hi, ht⟩⟩
  cases i with
  | idle => exact absurd (seq_eq_of_decode hi decodeSeqFields_idle) hs
  | eInit => exact leadsTo_eInit h hf
  | bAppend => exact leadsTo_bAppend h hf (hd nofun) hp
  | bRetire => exact leadsTo_bRetire h hf (hd nofun) hp
  | xLoad => exact leadsTo_xLoad h hf (hd nofun) hp
  | xRoundCh r => exact leadsTo_round h hf (hd nofun) 0b00#2 hr hp
  | xRoundPar1 r => exact leadsTo_round h hf (hd nofun) 0b01#2 hr hp
  | xRoundMaj r => exact leadsTo_round h hf (hd nofun) 0b10#2 hr hp
  | xRoundPar2 r => exact leadsTo_round h hf (hd nofun) 0b11#2 hr hp
  | xAdd => exact leadsTo_xAdd h hf (hd nofun) hp
  | fLatch => exact leadsTo_fLatch h hf (hd nofun) hp
  | fTerm => exact leadsTo_fTerm h hf (hd nofun) hp
  | fZero => exact leadsTo_fZero h hf (hd nofun) hp
  | fSpill => exact leadsTo_fSpill h hf (hd nofun)
  | fLen => exact leadsTo_fLen h hf (hd nofun) hp
  | fOut => exact leadsTo_fOut h hf
  | nop | update | finalize | reset => exact absurd hp id

/-! ### Commands at a boundary -/

/-- What the invariant says at a command boundary (R25, items 1 and 3). -/
theorem Inv.position_idle (h : Inv s) (hs : s.seq = seqIdle) : s.buflen.toNat ≤ 63 ∧ (s.nblk = 0 → s.h = iv) := by
  obtain ⟨i, hi, hp⟩ := h.position
  rw [hs, decodeSeqFields_idle] at hi
  cases hi
  exact hp

/-- The invariant does not read CMDREG. -/
theorem Inv.setCmdreg (h : Inv s) (w : BitVec 10) : Inv (s.setCmdreg w) :=
  ⟨h.1, h.2, h.3, h.4, h.5, h.6, h.7⟩

/-- R110, R161, R162: UPDATE, ignored, refused or started. -/
theorem exec_update_keeps (h : Inv s) (hs : s.seq = seqIdle) (d : Byte) :
    ∃ t, exec (.update d) s = .next t ∧ Inv t ∧ t.free = s.free := by
  obtain ⟨hb, hz⟩ := h.position_idle hs
  cases hf : s.faultFlag with
  | true => exact ⟨_, exec_update_ignored d hf, h.setCmdreg _, rfl⟩
  | false =>
    cases hl : s.lengthExhausted with
    | true =>
      have hx : s.nblk = maxNblk ∧ s.buflen.toNat = 63 := by simpa [State.lengthExhausted] using hl
      exact ⟨_, exec_update_fault d hf hl, ⟨h.canonical, h.written, h.buflenBound, h.nblkBound, fun _ => ⟨hs, rfl, hx⟩,
        fun hd => absurd hd Bool.false_ne_true, h.position⟩, rfl⟩
    | false =>
      exact ⟨_, exec_update_append d hf hl, Inv.of_clear_flags h.canonical h.written h.buflenBound h.nblkBound hf rfl
        (i := .bAppend) rfl ⟨hb, hz, hl⟩, rfl⟩

/-- R140, R162: FINALIZE, ignored or started. -/
theorem exec_finalize_keeps (h : Inv s) (hs : s.seq = seqIdle) (d : Byte) :
    ∃ t, exec (.finalize d) s = .next t ∧ Inv t ∧ t.free = s.free := by
  cases hf : s.faultFlag with
  | true => exact ⟨_, exec_finalize_ignored d hf, h.setCmdreg _, rfl⟩
  | false =>
    exact ⟨_, exec_finalize_latch d hf, Inv.of_clear_flags h.canonical h.written h.buflenBound h.nblkBound hf rfl
      (i := .fLatch) rfl (h.position_idle hs).1, rfl⟩

/-- R75: at a command boundary every command is accepted into a state of the invariant. -/
theorem exec_command_keeps (h : Inv s) (hs : s.seq = seqIdle) (c : BitVec 10) :
    ∃ t, exec (decodeCmd c) s = .next t ∧ Inv t ∧ t.free = s.free := by
  rcases decodeCmd_cases c with hc | hc | hc | hc <;> rw [hc]
  · exact ⟨_, exec_nop s _, h.setCmdreg _, rfl⟩
  · exact exec_update_keeps h hs _
  · exact exec_finalize_keeps h hs _
  · exact ⟨_, exec_reset s _, Inv.of_clear_flags h.canonical h.written h.buflenBound h.nblkBound rfl rfl
      (i := .eInit) rfl trivial, rfl⟩

/-- R181: a hardware reset gives a state of the invariant. -/
theorem inv_hardwareReset (s : State) : Inv s.hardwareReset :=
  Inv.of_clear_flags rfl (fun k hk => absurd hk (Nat.not_lt_zero k)) (Nat.zero_le 64) (Nat.zero_le _) rfl rfl
    (i := .idle) rfl ⟨Nat.zero_le 63, fun _ => rfl⟩

/-! ### Every step -/

/-- R77, R78: a step inside a command, whatever is presented. -/
theorem step_busy (h : Inv s) (hr : s.sample.rst = false) (hs : s.seq ≠ seqIdle) :
    ∃ t, step s = .next t ∧ Inv t ∧ t.free = s.free ∧ stepsLeft t < stepsLeft s := by
  obtain ⟨i, t, hi, ht⟩ := exists_leadsTo (s := s.dropSample) (h.setPins _) hs
  refine ⟨t, (step_micro hr hi fun he => absurd he hs).trans ht.exec, ht.inv, ht.free, ?_⟩
  exact (stepsLeft_of_decode (s := s.dropSample) hi).symm ▸ ht.closer

/-- R75, R78: a step at a command boundary, whether or not a command is presented. -/
theorem step_idle (h : Inv s) (hr : s.sample.rst = false) (hs : s.seq = seqIdle) :
    ∃ t, step s = .next t ∧ Inv t ∧ t.free = s.free := by
  have hd : Inv s.dropSample := h.setPins _
  cases hv : s.sample.cmdValid with
  | true =>
    rw [step_command hr hs hv]
    exact exec_command_keeps hd hs _
  | false =>
    rw [step_micro (i := .idle) hr (hs ▸ decodeSeqFields_idle) fun _ => hv, exec_idle]
    have hq : s.dropSample.setSeq seqIdle = s.dropSample := by rw [← hs]; rfl
    exact ⟨_, rfl, hq.symm ▸ hd, rfl⟩

/-- Every step of the invariant that meets no hardware reset. -/
theorem step_keeps (h : Inv s) (hr : s.sample.rst = false) :
    ∃ t, step s = .next t ∧ Inv t ∧ t.free = s.free := by
  by_cases hs : s.seq = seqIdle
  · exact step_idle h hr hs
  · obtain ⟨t, ht, hi, hf, -⟩ := step_busy h hr hs
    exact ⟨t, ht, hi, hf⟩

/-- Settles O40: a hardware reset gives a state of the invariant, and every other step keeps it. -/
theorem everyStepKeepsTheInvariant : Obligations.EveryStepKeepsTheInvariant := by
  unfold Obligations.EveryStepKeepsTheInvariant
  intro s t h hst
  cases hr : s.sample.rst with
  | true =>
    rw [step_reset hr] at hst
    cases hst
    exact inv_hardwareReset _
  | false =>
    obtain ⟨u, hu, hi, -⟩ := step_keeps h hr
    cases hu.symm.trans hst
    exact hi

/-- Settles O41: the position is IDLE's, at the initial point. -/
theorem resetSatisfiesTheInvariant : Obligations.ResetSatisfiesTheInvariant := by
  unfold Obligations.ResetSatisfiesTheInvariant
  exact Inv.of_clear_flags wf_reset (fun k hk => absurd hk (Nat.not_lt_zero k)) (Nat.zero_le 64) (Nat.zero_le _) rfl rfl
    (i := .idle) rfl ⟨Nat.zero_le 63, fun _ => rfl⟩

/-- Settles O42: a hardware reset answers a state, and so does every other step of the invariant. -/
theorem invariantStatesNeverStop : Obligations.InvariantStatesNeverStop := by
  unfold Obligations.InvariantStatesNeverStop
  intro s h
  cases hr : s.sample.rst with
  | true => exact ⟨_, step_reset hr⟩
  | false => exact (step_keeps h hr).imp fun t ht => ht.1

/-- Settles O43: X.LOAD has its 64 bytes, and F.ZERO its target. -/
theorem noStepReadsAnUnwrittenValue : Obligations.NoStepReadsAnUnwrittenValue := by
  unfold Obligations.NoStepReadsAnUnwrittenValue
  intro s t h hr hst
  obtain ⟨u, hu, -, hf⟩ := step_keeps h hr
  cases hu.symm.trans hst
  exact hf

/-- Settles O44: the bounds of the invariant, its position and its clauses on the two flags. -/
theorem commandBoundaryFacts : Obligations.CommandBoundaryFacts := by
  unfold Obligations.CommandBoundaryFacts
  intro s h hs
  obtain ⟨hb, hz⟩ := h.position_idle hs
  have hm : maxNblk.toNat = 2 ^ 55 - 1 := by decide
  have hn := hm ▸ h.nblkBound
  refine ⟨hb, hn, hz, by omega, fun hd => ⟨?_, ?_⟩⟩
  · refine Bool.eq_false_iff.2 fun hf => ?_
    exact absurd (hd.symm.trans (h.faulted hf).2.1) (by decide)
  · exact ((h.published hd).resolve_left fun he => absurd (hs.symm.trans he) (by decide)).2

/-- R191: while no hardware reset comes, the trace left brings the engine to the boundary. -/
theorem reaches_idle (n : Nat) : ∀ s : State, Inv s → s.noReset → stepsLeft s ≤ n →
    ∃ t, ReachesWithin n s t ∧ t.seq = seqIdle := by
  induction n with
  | zero =>
    intro s h hr hn
    refine ⟨s, .refl 0 s, ?_⟩
    by_contra hs
    obtain ⟨t, -, -, -, hlt⟩ := step_busy h hr.sample hs
    omega
  | succ n ih =>
    intro s h hr hn
    by_cases hs : s.seq = seqIdle
    · exact ⟨s, .refl _ s, hs⟩
    · obtain ⟨u, hu, hi, -, hlt⟩ := step_busy h hr.sample hs
      obtain ⟨t, ht, hq⟩ := ih u hi (hr.of_tail (step_pins hu)) (by omega)
      exact ⟨t, Nat.add_comm 1 n ▸ (ReachesWithin.of_step hu).trans ht, hq⟩

/-- Settles O49: every step inside a command shortens the trace left, which is at most the longest. -/
theorem everyCommandCompletes : Obligations.EveryCommandCompletes := by
  unfold Obligations.EveryCommandCompletes
  intro s h hr
  obtain ⟨i, hi, hp⟩ := h.position
  obtain ⟨t, ⟨k, hk, hst⟩, hq⟩ := reaches_idle maxTrace s h hr ((stepsLeft_of_decode hi).trans_le (traceLeft_le hp))
  exact ⟨k, t, hk, hst, hq⟩

end Sys2Proof.Machine
end

section
/-! SUPPORT. What the command level shows (spec/10_state.md R39 to R42, spec/41_cmd_update.md R113,
spec/60_exceptions.md R162): the observations are read off the architectural state, and lists of
words act on it one after another. -/

namespace Sys2Proof.Machine

variable {s : State} {a : Arch} {x : Byte} {data : List Byte}

/-! ### Runs and their observations -/

/-- R71, R196: what the host sees at a command boundary, from the architectural state. -/
def Arch.observe (a : Arch) : Observation :=
  { digestValid := a.digest.isSome, digest := a.digest.map packDigest, lenFault := a.fault }

theorem observe_eq_arch (s : State) : s.observe = s.arch.observe := by
  simp only [State.observe, State.digestValidPort, State.digestPort, State.lenFaultPort, Arch.observe, State.arch]
  cases s.dvalid <;> rfl

/-- The architectural state behind each word of a program, in order. -/
def Arch.trace : List (BitVec 10) → Arch → List Arch
  | [], _ => []
  | c :: cs, a => a.accept c :: Arch.trace cs (a.accept c)

/-- R16, R196: with nothing driven a run ends in, and shows, what its words make of the architectural state. -/
theorem runWords_arch (ws : List (BitVec 10)) : ∀ s : State, Boundary s →
    ∃ t, runWords ws s = .next { final := .ready t, shown := (Arch.trace ws s.arch).map Arch.observe } ∧
      t.arch = ws.foldl (fun y c => y.accept c) s.arch := by
  induction ws with
  | nil => exact fun s _ => ⟨s, runWords_nil s, rfl⟩
  | cons c ws ih =>
    intro s hs
    obtain ⟨u, hu, hub, hua⟩ := acceptedCommandMakesItsTransition s c hs
    obtain ⟨t, ht, hta⟩ := ih u hub
    refine ⟨t, ?_, by rw [hta, hua]; rfl⟩
    rw [runWords_cons_ready hu ht, observe_eq_arch, hua]
    rfl

/-- Settles O52: both runs are those of the one architectural state. -/
theorem leftoverRegistersAreNeverObserved : Obligations.LeftoverRegistersAreNeverObserved := by
  unfold Obligations.LeftoverRegistersAreNeverObserved
  intro s s' ws hs hs' ha
  obtain ⟨t, ht, hta⟩ := runWords_arch ws s hs
  obtain ⟨t', ht', hta'⟩ := runWords_arch ws s' hs'
  rw [← ha] at ht' hta'
  exact ⟨t, t', _, ht, ht', hta.trans hta'.symm⟩

/-! ### The fault state -/

/-- R162: while FAULT = 1 every word but RESET leaves the architectural state. -/
theorem Arch.accept_faulted {c : BitVec 10} (hf : a.fault = true) (hc : cmdOp c ≠ 0b11#2) : a.accept c = a := by
  rcases cmdOp_cases (cmdOp c) with h | h | h | h
  · simp [Arch.accept, h]
  · simp [Arch.accept, h, Arch.update_ignored hf]
  · simp [Arch.accept, h, Arch.finalize_ignored hf]
  · exact absurd h hc

theorem foldl_accept_faulted {ws : List (BitVec 10)} (hf : a.fault = true) (hw : ∀ c ∈ ws, cmdOp c ≠ 0b11#2) :
    ws.foldl (fun y c => y.accept c) a = a := by
  induction ws with
  | nil => rfl
  | cons c ws ih =>
    rw [List.foldl_cons, Arch.accept_faulted hf (hw c List.mem_cons_self)]
    exact ih fun d hd => hw d (List.mem_cons_of_mem _ hd)

theorem trace_faulted {ws : List (BitVec 10)} (hf : a.fault = true) (hw : ∀ c ∈ ws, cmdOp c ≠ 0b11#2) :
    Arch.trace ws a = List.replicate ws.length a := by
  induction ws with
  | nil => rfl
  | cons c ws ih =>
    rw [Arch.trace, Arch.accept_faulted hf (hw c List.mem_cons_self), ih fun d hd => hw d (List.mem_cons_of_mem _ hd)]
    rfl

/-- R161, R162: a faulted engine offers no digest. -/
theorem observe_faulted (hs : Boundary s) (hf : s.faultFlag = true) :
    s.arch.observe = { digestValid := false, digest := none, lenFault := true } := by
  obtain ⟨-, hd, -⟩ := hs.inv.faulted hf
  simp [Arch.observe, State.arch, hd, hf]

/-- Settles O51: no word but RESET changes the architectural state, and each shows it again. -/
theorem faultedEngineGivesNoDigest : Obligations.FaultedEngineGivesNoDigest := by
  unfold Obligations.FaultedEngineGivesNoDigest
  intro s ws hs hf hw
  obtain ⟨t, ht, hta⟩ := runWords_arch ws s hs
  rw [trace_faulted hf hw, List.map_replicate, observe_faulted hs hf] at ht
  refine ⟨t, _, ht, hta.trans (foldl_accept_faulted hf hw), List.length_replicate, fun o ho => ?_⟩
  rw [List.eq_of_mem_replicate ho]
  exact ⟨rfl, rfl, rfl⟩

/-! ### NOP -/

/-- R100: NOP leaves the architectural state, whatever its data. -/
theorem Arch.accept_nop {c : BitVec 10} (hc : cmdOp c = 0b00#2) : a.accept c = a := by
  simp [Arch.accept, hc]

/-- Settles O56: by induction along the list, a NOP being passed over. -/
theorem nopsAreInvisible : Obligations.NopsAreInvisible := by
  unfold Obligations.NopsAreInvisible
  intro a ws
  induction ws generalizing a with
  | nil => rfl
  | cons c ws ih =>
    rw [List.foldl_cons, ih]
    by_cases hc : cmdOp c = 0b00#2
    · rw [Arch.accept_nop hc, List.filter_cons_of_neg (by simp [hc])]
    · rw [List.filter_cons_of_pos (by simp [hc]), List.foldl_cons]

/-! ### UPDATE -/

/-- R32, R75: an UPDATE that is not ignored withdraws the digest. -/
theorem Arch.update_digest (hf : a.fault = false) : (a.update x).digest = none := by
  simp only [Arch.update, hf]
  split
  · contradiction
  · split
    · rfl
    · split <;> rfl

/-- Settles O54: the message grows by the byte, which is pending or completes a block. -/
theorem updateExtendsTheAbsorbedMessage : Obligations.UpdateExtendsTheAbsorbedMessage := by
  unfold Obligations.UpdateExtendsTheAbsorbedMessage
  intro a m x habs hf hp hm
  obtain ⟨habs', hp', hf'⟩ := Absorbing.update (x := x) ⟨habs, hp, hf⟩ hm
  exact ⟨habs', hp', hf', Arch.update_digest hf⟩

/-- R113: the net effect of `update(data)`, S being the pending bytes and then the data. -/
def Arch.absorb (data : List Byte) (a : Arch) : Arch :=
  { h := (blocks ((a.pending ++ data).length / 64) (a.pending ++ data)).foldl transform a.h
    pending := (a.pending ++ data).drop (64 * ((a.pending ++ data).length / 64))
    nblk := a.nblk + BitVec.ofNat 64 ((a.pending ++ data).length / 64)
    digest := if data = [] then a.digest else none
    fault := false }

theorem Arch.absorb_nil (hf : a.fault = false) (hp : a.pending.length ≤ 63) : a.absorb [] = a := by
  obtain ⟨h, p, n, d, f⟩ := a
  obtain rfl : f = false := hf
  have hq : p.length / 64 = 0 := Nat.div_eq_of_lt (Nat.lt_succ_of_le hp)
  simp only [Arch.absorb, List.append_nil, hq]
  simp [blocks]

/-- R113: with room left in the block the first byte only moves from the data to the pending bytes. -/
theorem Arch.absorb_cons_room (hf : a.fault = false) (hp : a.pending.length < 63) :
    (a.update x).absorb data = a.absorb (x :: data) := by
  rw [Arch.update_room hf hp]
  simp [Arch.absorb]

/-- R113: the byte that completes a block leaves one block less to transform. -/
theorem Arch.absorb_cons_full (hf : a.fault = false) (hn : a.nblk ≠ maxNblk) (hp : a.pending.length = 63) :
    (a.update x).absorb data = a.absorb (x :: data) := by
  have hb : (a.pending ++ [x]).length = 64 := by simp [hp]
  have hS : a.pending ++ x :: data = a.pending ++ [x] ++ data := List.append_cons ..
  have hq : (a.pending ++ [x] ++ data).length / 64 = 1 + data.length / 64 := by rw [List.length_append, hb]; omega
  have hd : 64 * (1 + data.length / 64) = (a.pending ++ [x]).length + 64 * (data.length / 64) := by omega
  rw [Arch.update_full hf hn hp]
  simp only [Arch.absorb, List.nil_append, hS, hq, blocks_add (n := 1) hb, blocks_one hb, List.foldl_append, hd,
    List.drop_length_add_append, BitVec.ofNat_add, BitVec.add_assoc]
  simp

/-- R113: one byte of the data. -/
theorem Arch.absorb_cons (hf : a.fault = false) (hp : a.pending.length ≤ 63)
    (hb : 64 * a.nblk.toNat + a.pending.length + 1 < 2 ^ 61) : (a.update x).absorb data = a.absorb (x :: data) := by
  rcases Nat.lt_or_eq_of_le hp with hlt | heq
  · exact Arch.absorb_cons_room hf hlt
  · refine Arch.absorb_cons_full hf (fun hn => ?_) heq
    rw [hn, show maxNblk.toNat = 2 ^ 55 - 1 from rfl] at hb
    omega

/-- R24: the increment of a block counter within its bound does not wrap. -/
theorem nblk_toNat_succ {n : DWord} (hn : n.toNat ≤ 2 ^ 55 - 1) : (n + 1).toNat = n.toNat + 1 := by
  have h1 : (1 : DWord).toNat = 1 := rfl
  rw [BitVec.toNat_add, h1]
  omega

/-- R110: an UPDATE within the bound adds one to the bytes taken, and none of its bytes stays pending past 63. -/
theorem Arch.update_count (hf : a.fault = false) (hp : a.pending.length ≤ 63)
    (hb : 64 * a.nblk.toNat + a.pending.length + 1 < 2 ^ 61) :
    (a.update x).fault = false ∧ (a.update x).pending.length ≤ 63 ∧
      64 * (a.update x).nblk.toNat + (a.update x).pending.length = 64 * a.nblk.toNat + a.pending.length + 1 := by
  rcases Nat.lt_or_eq_of_le hp with hlt | heq
  · rw [Arch.update_room hf hlt]
    simp only [List.length_append, List.length_singleton]
    exact ⟨hf, by omega, by omega⟩
  · have hm : maxNblk.toNat = 2 ^ 55 - 1 := rfl
    have hn : a.nblk ≠ maxNblk := fun hn => by rw [hn] at hb; omega
    have hs := nblk_toNat_succ (n := a.nblk) (by omega)
    rw [Arch.update_full hf hn heq]
    simp only [hs, List.length_nil]
    exact ⟨hf, by omega, by omega⟩

/-- R86, R113: the UPDATEs of a byte sequence, one after another. -/
theorem foldl_updateWords_eq_absorb (data : List Byte) : ∀ a : Arch, a.fault = false → a.pending.length ≤ 63 →
    64 * a.nblk.toNat + a.pending.length + data.length < 2 ^ 61 →
    (updateWords data).foldl (fun y c => y.accept c) a = a.absorb data := by
  induction data with
  | nil => exact fun a hf hp _ => (Arch.absorb_nil hf hp).symm
  | cons x data ih =>
    intro a hf hp hb
    rw [List.length_cons] at hb
    obtain ⟨hf', hp', hc⟩ := Arch.update_count (x := x) hf hp (by omega)
    rw [← Arch.absorb_cons hf hp (by omega), ← ih (a.update x) hf' hp' (by omega), ← accept_updateWord]
    rfl

/-- Settles O55: the net effect is that of one byte after another. -/
theorem multiByteUpdateNetEffect : Obligations.MultiByteUpdateNetEffect := by
  unfold Obligations.MultiByteUpdateNetEffect
  exact fun a data hf hp hb => foldl_updateWords_eq_absorb data a hf hp hb

/-! ### Idle and Accumulating (R40) -/

theorem Arch.accumulating_iff : a.accumulating = true ↔ a.pending ≠ [] ∨ a.nblk ≠ 0 := by
  simp [Arch.accumulating, Arch.idle, ← not_and_or]

/-- R40: the UPDATE that is taken leaves a pending byte or a counted block. -/
theorem Arch.update_accumulating (hf : a.fault = false) (hn : a.nblk.toNat ≤ 2 ^ 55 - 1)
    (hl : ¬ (a.nblk.toNat = 2 ^ 55 - 1 ∧ a.pending.length = 63)) : (a.update x).accumulating = true := by
  have hx : ¬ (a.nblk = maxNblk ∧ a.pending.length = 63) := fun ⟨h1, h2⟩ => hl ⟨by rw [h1]; rfl, h2⟩
  rw [Arch.accumulating_iff]
  simp only [Arch.update, hf, hx, if_false]
  split
  · contradiction
  · split
    · exact .inr fun h0 => absurd ((nblk_toNat_succ hn).symm.trans (congrArg BitVec.toNat h0)) (Nat.succ_ne_zero _)
    · exact .inl (by simp)

/-- Settles O57: UPDATE leaves a byte behind, FINALIZE and RESET the initial point, NOP what was there. -/
theorem idleAndAccumulatingTransitions : Obligations.IdleAndAccumulatingTransitions := by
  unfold Obligations.IdleAndAccumulatingTransitions
  intro a x hn
  refine ⟨fun hf hl => Arch.update_accumulating hf hn hl, fun hf => ?_, rfl, ?_⟩
  · rw [Arch.finalize_eq hf]; rfl
  · exact congrArg Arch.idle (Arch.accept_nop (cmdOp_cmdWord 0b00#2 x))

/-! ### The padded message (R147) -/

/-- The number of zero bytes in Pad(m), for m of n bytes. -/
def padZeros (n : Nat) : Nat := (119 - n % 64) % 64

theorem pad_eq (m : List Byte) : pad m =
    (m ++ [0x80#8] ++ List.replicate (padZeros m.length) 0x00#8) ++ be64 (BitVec.ofNat 64 (8 * m.length)) := rfl

theorem padBody_length (m : List Byte) :
    (m ++ [0x80#8] ++ List.replicate (padZeros m.length) 0x00#8).length = m.length + 1 + padZeros m.length := by
  simp only [List.length_append, List.length_singleton, List.length_replicate]

theorem pad_length (m : List Byte) : (pad m).length = m.length + 1 + padZeros m.length + 8 := by
  rw [pad_eq, List.length_append, padBody_length, be64_length]

/-- R147: the zero bytes are the fewest that complete the block with the terminator and the length. -/
theorem padZeros_spec (n : Nat) : (n + 1 + padZeros n + 8) % 64 = 0 ∧ padZeros n < 64 := by
  unfold padZeros; omega

/-- R147: behind m and its terminator stand zero bytes. -/
theorem pad_getElem?_zero (m : List Byte) {k : Nat} (hlo : m.length < k) (hhi : k < m.length + 1 + padZeros m.length) :
    (pad m)[k]? = some 0x00#8 := by
  have hm : (m ++ [0x80#8]).length = m.length + 1 := List.length_append
  rw [pad_eq, List.getElem?_append_left ((padBody_length m).symm ▸ hhi), List.getElem?_append_right (by omega), hm,
    List.getElem?_replicate_of_lt (by omega)]

/-- Settles O58: the four parts of Pad(m), at their places. -/
theorem paddingFillsWholeBlocks : Obligations.PaddingFillsWholeBlocks := by
  unfold Obligations.PaddingFillsWholeBlocks
  intro m _
  obtain ⟨hmod, hlt⟩ := padZeros_spec m.length
  have hlen := pad_length m
  refine ⟨hlen ▸ hmod, by omega, by omega, ?_, fun k hlo hhi => pad_getElem?_zero m hlo (by omega), ?_⟩
  · rw [pad_eq, List.append_assoc (m ++ [0x80#8])]
    exact List.take_left' List.length_append
  · rw [hlen, Nat.add_sub_cancel, pad_eq]
    exact List.drop_left' (padBody_length m)

end Sys2Proof.Machine
end

section
/-! SUPPORT. The expanded schedule (spec/42_block_transform.md R132): the list WW[0..79] satisfies R132's recurrence,
and before round t the window of R131 holds its sixteen latest words. -/

namespace Sys2Proof.Machine

/-! ### The list of schedule words -/

/-- R132: the word behind the list ww, from four of its words. -/
def nextWord (ww : List Word) : Word :=
  rotl 1 (ww.getD (ww.length - 3) 0 ^^^ ww.getD (ww.length - 8) 0 ^^^ ww.getD (ww.length - 14) 0 ^^^
    ww.getD (ww.length - 16) 0)

theorem expandSchedule_succ (n : Nat) (ww : List Word) :
    expandSchedule (n + 1) ww = expandSchedule n (ww ++ [nextWord ww]) := rfl

theorem expandSchedule_length (n : Nat) : ∀ ww, (expandSchedule n ww).length = ww.length + n := by
  induction n with
  | zero => exact fun ww => rfl
  | succ n ih => intro ww; rw [expandSchedule_succ, ih, List.length_append, List.length_singleton]; omega

/-- The words that are there stay. -/
theorem expandSchedule_getD (n : Nat) : ∀ (ww : List Word) {k : Nat}, k < ww.length →
    (expandSchedule n ww).getD k 0 = ww.getD k 0 := by
  induction n with
  | zero => exact fun ww k _ => rfl
  | succ n ih =>
    intro ww k hk
    rw [expandSchedule_succ, ih _ (by rw [List.length_append]; omega), List.getD_append _ _ _ _ hk]

/-- R132: every word added is the recurrence's, read off the whole list. -/
theorem expandSchedule_recurrence (n : Nat) : ∀ (ww : List Word) {t : Nat}, 16 ≤ ww.length → ww.length ≤ t →
    t < ww.length + n → (expandSchedule n ww).getD t 0 =
      rotl 1 ((expandSchedule n ww).getD (t - 3) 0 ^^^ (expandSchedule n ww).getD (t - 8) 0 ^^^
        (expandSchedule n ww).getD (t - 14) 0 ^^^ (expandSchedule n ww).getD (t - 16) 0) := by
  induction n with
  | zero => intro ww t _ hlo hhi; omega
  | succ n ih =>
    intro ww t h16 hlo hhi
    have hlen : (ww ++ [nextWord ww]).length = ww.length + 1 := List.length_append
    rcases Nat.lt_or_eq_of_le hlo with hlt | rfl
    · exact ih (ww ++ [nextWord ww]) (t := t) (by omega) (by omega) (by omega)
    · have hold : ∀ k, k < ww.length → (expandSchedule (n + 1) ww).getD k 0 = ww.getD k 0 :=
        fun k hk => expandSchedule_getD (n + 1) ww hk
      have hnew : (expandSchedule (n + 1) ww).getD ww.length 0 = nextWord ww := by
        rw [expandSchedule_succ, expandSchedule_getD n _ (by omega)]
        simp
      rw [hnew, hold (ww.length - 3) (by omega), hold (ww.length - 8) (by omega), hold (ww.length - 14) (by omega),
        hold (ww.length - 16) (by omega)]
      rfl

variable {blk : List Byte} {t : Nat}

/-- R132: the first sixteen words are the block's. -/
theorem scheduleWords_block (ht : t < 16) : (scheduleWords blk).getD t 0 = blockWord blk t := by
  rw [scheduleWords, expandSchedule_getD 64 _ (by simpa using ht)]
  simp [List.getD, ht]

/-- R132: WW[t] from WW[t−3], WW[t−8], WW[t−14], WW[t−16]. -/
theorem scheduleWords_recurrence (hlo : 16 ≤ t) (hhi : t < 80) : (scheduleWords blk).getD t 0 =
    rotl 1 ((scheduleWords blk).getD (t - 3) 0 ^^^ (scheduleWords blk).getD (t - 8) 0 ^^^
      (scheduleWords blk).getD (t - 14) 0 ^^^ (scheduleWords blk).getD (t - 16) 0) := by
  have hl : ((List.range 16).map (blockWord blk)).length = 16 := by simp
  exact expandSchedule_recurrence 64 _ (Nat.le_of_eq hl.symm) (by omega) (by omega)

/-! ### The window of sixteen words -/

/-- R132: before round t the slots of w hold the words from t − 16 on, and the block's as long as t < 16. -/
def HoldsWindow (blk : List Byte) (t : Nat) (w : Vector Word 16) : Prop :=
  ∀ k, k < max t 16 → t ≤ k + 16 → slot w k = (scheduleWords blk).getD k 0

theorem holdsWindow_zero : HoldsWindow blk 0 (Vector.ofFn fun j => blockWord blk j.val) := by
  intro k hk _
  have hk : k < 16 := hk
  rw [slot_ofFn _ hk, scheduleWords_block hk]

variable {w : Vector Word 16}

/-- R121 beside R132: round t uses WW[t]. -/
theorem HoldsWindow.roundWord_eq (h : HoldsWindow blk t w) (ht : t < 80) :
    roundWord w t = (scheduleWords blk).getD t 0 := by
  unfold roundWord
  split
  · next h16 =>
    have hslot : ∀ n k, n % 16 = k % 16 → k < t → t ≤ k + 16 → slot w n = (scheduleWords blk).getD k 0 := by
      intro n k hnk hk hk16
      rw [← slot_mod, hnk, slot_mod, h k (by omega) hk16]
    rw [← rotl_eq_rotateLeft (by decide), scheduleWords_recurrence h16 ht,
      hslot _ (t - 3) (by omega) (by omega) (by omega), hslot _ (t - 8) (by omega) (by omega) (by omega),
      hslot _ (t - 14) (by omega) (by omega) (by omega), hslot _ (t - 16) (by omega) (by omega) (by omega)]
  · exact h t (by omega) (by omega)

/-- R121: the schedule step moves the window on by one word. -/
theorem HoldsWindow.scheduleStep (h : HoldsWindow blk t w) (ht : t < 80) :
    HoldsWindow blk (t + 1) (scheduleStep t w) := by
  intro k hk hk16
  rw [← slot_mod, slot_scheduleStep w t (Nat.mod_lt k (by decide)), slot_mod]
  split
  · next hkt =>
    obtain rfl : k = t := by omega
    exact h.roundWord_eq ht
  · next hkt => exact h k (by omega) (by omega)

/-- R132: round by round, the window and the list give the same working registers. -/
theorem foldl_transformRound (blk : List Byte) (v : Working) : ∀ t, t ≤ 80 →
    HoldsWindow blk t ((List.range t).foldl transformRound (Vector.ofFn fun j => blockWord blk j.val, v)).1 ∧
      ((List.range t).foldl transformRound (Vector.ofFn fun j => blockWord blk j.val, v)).2 =
        (List.range t).foldl (fun x n => mixRound n ((scheduleWords blk).getD n 0) x) v := by
  intro t
  induction t with
  | zero => exact fun _ => ⟨holdsWindow_zero, rfl⟩
  | succ t ih =>
    intro ht
    obtain ⟨hw, hv⟩ := ih (by omega)
    simp only [List.range_succ, List.foldl_append, List.foldl_cons, List.foldl_nil]
    rw [transformRound_fst, transformRound_snd, hw.roundWord_eq ht, hv]
    exact ⟨hw.scheduleStep ht, rfl⟩

/-- Settles O47: the two loops agree round by round. -/
theorem expandedScheduleAgrees : Obligations.ExpandedScheduleAgrees := by
  unfold Obligations.ExpandedScheduleAgrees
  intro h blk _
  exact congrArg (addWork h) (foldl_transformRound blk (workOfH h) 80 (Nat.le_refl 80)).2

end Sys2Proof.Machine
end

section
/-! SUPPORT. Commands at their acceptance and the micro-operations of engine, buffer and padding, one by one
(spec/30_encoding.md R75, spec/41_cmd_update.md, spec/43_cmd_finalize.md): what each answers, and its frame. -/

namespace Sys2Proof.Machine

/-! ### Commands -/

/-- Settles O14: RESET looks at no flag. -/
theorem resetCommandClearsBothFlags : Obligations.ResetCommandClearsBothFlags := by
  unfold Obligations.ResetCommandClearsBothFlags
  intro d s
  refine ⟨_, exec_reset s d, rfl, rfl, rfl, rfl, ?_⟩
  exact ((((OnlyWrites.refl _ s).setCmdreg _ (by decide)).setDvalid false (by decide)).setFault false
    (by decide)).setSeq seqEInit (by decide)

/-- Settles O15: neither the test of FAULT nor that of the length holds. -/
theorem updateAcceptanceSelectsAppend : Obligations.UpdateAcceptanceSelectsAppend := by
  unfold Obligations.UpdateAcceptanceSelectsAppend
  intro d s hf hl
  have hx : s.lengthExhausted = false := Bool.eq_false_iff.2 fun h => hl ((lengthExhausted_iff s).1 h)
  refine ⟨_, exec_update_append d hf hx, rfl, rfl, rfl, ?_⟩
  exact (((OnlyWrites.refl _ s).setCmdreg _ (by decide)).setDvalid _ (by decide)).setSeq _ (by decide)

/-- Settles O17: the test of FAULT does not hold. -/
theorem finalizeAcceptanceSelectsLatch : Obligations.FinalizeAcceptanceSelectsLatch := by
  unfold Obligations.FinalizeAcceptanceSelectsLatch
  intro d s hf
  refine ⟨_, exec_finalize_latch d hf, rfl, rfl, rfl, ?_⟩
  exact (((OnlyWrites.refl _ s).setCmdreg _ (by decide)).setDvalid _ (by decide)).setSeq _ (by decide)

/-- Settles O19: SEQ is written with the value it has. -/
theorem idleChangesNothing : Obligations.IdleChangesNothing := by
  unfold Obligations.IdleChangesNothing
  intro s hs
  have hq : s.setSeq seqIdle = s := by
    rw [show seqIdle = s.seq from hs.symm]
    rfl
  rw [exec_idle, hq]

/-! ### Buffer and transform -/

/-- Settles O21: the meaning is one append, with a case for the byte that fills the buffer. -/
theorem bufferAppendEffect : Obligations.BufferAppendEffect := by
  unfold Obligations.BufferAppendEffect
  refine ⟨rfl, fun s hb => ?_⟩
  rcases Nat.lt_or_eq_of_le hb with hlt | heq
  · refine ⟨_, exec_bAppend_room hlt, buflen_succ hb, lookup_append s s.cmdByte, fun h => absurd h (Nat.ne_of_lt hlt),
      fun _ => ⟨rfl, rfl⟩, ?_⟩
    exact (((OnlyWrites.refl _ s).setBuf _ (by decide)).setBuflen _ (by decide)).setSeq _ (by decide)
  · refine ⟨_, exec_bAppend_full heq, buflen_succ hb, lookup_append s s.cmdByte, fun _ => ⟨rfl, rfl⟩,
      fun h => absurd heq h, ?_⟩
    exact ((((OnlyWrites.refl _ s).setBuf _ (by decide)).setBuflen _ (by decide)).setXret _ (by decide)).setSeq _
      (by decide)

/-- Settles O22: below the bound the 64-bit sum does not wrap. -/
theorem bufferRetireEffect : Obligations.BufferRetireEffect := by
  unfold Obligations.BufferRetireEffect
  refine ⟨rfl, fun s => ⟨_, exec_bRetire s, rfl, fun hn => nblk_toNat_succ (by omega), rfl, rfl, ?_⟩⟩
  exact (((OnlyWrites.refl _ s).setNblk _ (by decide)).setBuflen _ (by decide)).setSeq _ (by decide)

/-- Settles O24: X.LOAD tests nothing; only the counter of free values depends on the cells. -/
theorem loadCompletesInEveryState : Obligations.LoadCompletesInEveryState := by
  unfold Obligations.LoadCompletesInEveryState
  intro s
  refine ⟨_, exec_xLoad s, rfl, rfl, rfl, rfl, rfl, rfl, ?_⟩
  exact ((((OnlyWrites.refl _ s).setW _ (by decide)).setWork _ (by decide)).setSeq _ (by decide)).setFree _ (by decide)

/-- Settles O26: the four variants share one test of R. -/
theorem reservedRoundsAreRefused : Obligations.ReservedRoundsAreRefused := by
  unfold Obligations.ReservedRoundsAreRefused
  intro r s hr
  have hl : roundLegal r = false := decide_eq_false (by omega)
  exact ⟨runRound_reserved hl, runRound_reserved hl, runRound_reserved hl, runRound_reserved hl⟩

/-! ### F.LATCH -/

variable {s : State}

/-- R24, R83: within the length bound the bit length fits 64 bits. -/
theorem messageBits_exact (hn : s.nblk.toNat ≤ 2 ^ 55 - 1) (hb : s.buflen.toNat ≤ 63) :
    s.messageBits.toNat = 512 * s.nblk.toNat + 8 * s.buflen.toNat := by
  rw [messageBits_toNat, Nat.mod_eq_of_lt (by omega)]

/-- R141: within the length bound the two parts share no bit. -/
theorem messageBits_eq_or (hn : s.nblk.toNat ≤ 2 ^ 55 - 1) (hb : s.buflen.toNat ≤ 63) :
    s.messageBits = (s.nblk <<< 9) ||| (s.buflen.setWidth 64 <<< 3) := by
  apply BitVec.eq_of_toNat_eq
  have hblk : (s.nblk <<< 9).toNat = s.nblk.toNat <<< 9 := by
    rw [BitVec.toNat_shiftLeft, Nat.shiftLeft_eq]; omega
  have hbuf : (s.buflen.setWidth 64 <<< 3).toNat = 8 * s.buflen.toNat := by
    rw [BitVec.toNat_shiftLeft, BitVec.toNat_setWidth, Nat.shiftLeft_eq]; omega
  rw [messageBits_exact hn hb, BitVec.toNat_or, hblk, hbuf, ← Nat.shiftLeft_add_eq_or_of_lt (by omega),
    Nat.shiftLeft_eq]
  omega

/-- Settles O28: the sum modulo 2^64, which within the bound is the sum itself. -/
theorem latchComputesTheBitLength : Obligations.LatchComputesTheBitLength := by
  unfold Obligations.LatchComputesTheBitLength
  refine ⟨rfl, fun s => ⟨_, exec_fLatch s, messageBits_toNat s, fun hn hb => ?_, rfl, ?_⟩⟩
  · have hx := messageBits_exact hn hb
    exact ⟨hx, by rw [setSeq_lenbits, setLenbits_lenbits]; omega, by rw [setSeq_lenbits, setLenbits_lenbits]; omega,
      messageBits_eq_or hn hb⟩
  · exact ((OnlyWrites.refl _ s).setLenbits _ (by decide)).setSeq _ (by decide)

/-! ### The padding -/

/-- Settles O30: the meaning is one append; LAST stops at 56 bytes, SPILL at 64. -/
theorem zeroFillEffect : Obligations.ZeroFillEffect := by
  unfold Obligations.ZeroFillEffect
  refine ⟨rfl, fun s hb hx => ?_⟩
  have hdraw : padDraws s.xret = 0 := by
    cases h : s.xret with
    | upd => exact absurd h hx
    | spill => rfl
    | last => rfl
  have he := exec_fZero hb
  rw [hdraw] at he
  refine ⟨_, he, buflen_succ hb, lookup_append s fillByte, fun h => ?_, fun h => ?_, ?_⟩
  · rw [setFree_seq, setSeq_seq, h, stopsAt_last]
    split <;> rfl
  · rw [setFree_seq, setSeq_seq, h, stopsAt_spill]
    split <;> rfl
  · exact (((OnlyWrites.refl _ s).setBuf _ (by decide)).setBuflen _ (by decide)).setSeq _ (by decide)

/-- Settles O31: the append does not look at XRET. -/
theorem zeroFillWithoutTargetStillAppends : Obligations.ZeroFillWithoutTargetStillAppends := by
  unfold Obligations.ZeroFillWithoutTargetStillAppends
  intro s hb _
  refine ⟨_, exec_fZero hb, buflen_succ hb, lookup_append s fillByte, ?_⟩
  exact ((((OnlyWrites.refl _ s).setBuf _ (by decide)).setBuflen _ (by decide)).setSeq _ (by decide)).setFree _
    (by decide)

/-- Settles O32: the meaning writes BUFLEN, XRET and SEQ. -/
theorem spillEffect : Obligations.SpillEffect := by
  unfold Obligations.SpillEffect
  refine ⟨rfl, fun s => ⟨_, exec_fSpill s, rfl, rfl, rfl, ?_⟩⟩
  exact (((OnlyWrites.refl _ s).setBuflen _ (by decide)).setXret _ (by decide)).setSeq _ (by decide)

/-- R12: byte i of be64(x) is x shifted down to its low byte. -/
theorem be64_getElem? (x : DWord) {i : Nat} (hi : i < 8) :
    (be64 x)[i]? = some ((x >>> (8 * (7 - i))).setWidth 8) := by
  have hb : be64 x = (List.range 8).map (byte64 x) := rfl
  rw [hb, BitVec.setWidth_ushiftRight_eq_extractLsb]
  simp [hi, byte64]

/-- Settles O33: the eight bytes go to index 56 and up, whatever BUFLEN is. -/
theorem lengthFieldEffect : Obligations.LengthFieldEffect := by
  unfold Obligations.LengthFieldEffect
  refine ⟨rfl, fun s => ⟨_, exec_fLen s, fun i hi => ?_, fun k hk => ?_, rfl, rfl, ?_⟩⟩
  · refine (lookup_store s.buf 56 (56 + i) (be64 s.lenbits)).trans ?_
    rw [if_pos (by rw [be64_length]; omega), Nat.add_sub_cancel_left, be64_getElem? s.lenbits hi]
  · exact (lookup_store s.buf 56 k (be64 s.lenbits)).trans (if_neg (by rw [be64_length]; omega))
  · exact (((OnlyWrites.refl _ s).setBuf _ (by decide)).setBuflen _ (by decide)).setSeq _ (by decide)

/-- R84: the four bytes of a digest word, in the order of DIGEST. -/
theorem byte32_eq_setWidth (x : Word) (n : Nat) : byte32 x n = (x >>> (8 * (3 - n))).setWidth 8 :=
  BitVec.setWidth_ushiftRight_eq_extractLsb.symm

/-- Settles O34: byte n of word i stands at DIGEST[4i + n]. -/
theorem digestOutEffect : Obligations.DigestOutEffect := by
  unfold Obligations.DigestOutEffect
  refine ⟨rfl, fun s => ⟨_, exec_fOut s, fun n hn => ?_, rfl, rfl, ?_⟩⟩
  · simp only [← byte32_eq_setWidth]
    interval_cases n <;> exact ⟨rfl, rfl, rfl, rfl, rfl⟩
  · exact (((OnlyWrites.refl _ s).setDigest _ (by decide)).setDvalid _ (by decide)).setSeq _ (by decide)

/-- Settles O35: the three byte appends share one write of BUF. -/
theorem appendOutsideTheBufferFaults : Obligations.AppendOutsideTheBufferFaults := by
  unfold Obligations.AppendOutsideTheBufferFaults
  exact fun s hb => ⟨exec_bAppend_outside hb, exec_fTerm_outside hb, exec_fZero_outside hb⟩

end Sys2Proof.Machine
end

section
/-! SUPPORT. Statements over all instructions (spec/10_state.md R32, R33, R37; spec/20_memory.md R53;
spec/42_block_transform.md R135): an instruction writes no field outside its row of the access summary, and what follows
for the cells of BUF, for the two flags and for the transform's successors. -/

namespace Sys2Proof.Machine

variable {s t : State} {i : Instr}

/-! ### The access summary -/

theorem append_onlyWrites {b : Byte} (h : s.append b = .ok t) : OnlyWrites [.buf, .buflen] s t := by
  obtain ⟨-, rfl⟩ := append_ok h
  exact ((OnlyWrites.refl _ s).setBuf _ (by decide)).setBuflen _ (by decide)

/-- The X.ROUND variants answer nothing but their round body. -/
theorem runRound_next {stage : BitVec 2} {f : Word → Word → Word → Word} {k : Word} {r : BitVec 5}
    (h : runRound stage f k r s = .next t) : t = s.roundBody stage f k r := by
  unfold runRound at h
  split at h
  · exact (Host.Outcome.next.inj h).symm
  · cases h

theorem runRound_onlyWrites {stage : BitVec 2} {f : Word → Word → Word → Word} {k : Word} {r : BitVec 5}
    (h : runRound stage f k r s = .next t) : OnlyWrites [.work, .w, .seq] s t :=
  runRound_next h ▸ roundBody_onlyWrites stage f k r s

theorem execUpdate_onlyWrites {d : Byte} (h : exec (.update d) s = .next t) :
    OnlyWrites [.cmdreg, .dvalid, .faultFlag, .seq] s t := by
  have hacc : OnlyWrites [.cmdreg, .dvalid, .faultFlag, .seq] s (s.setCmdreg (cmdWord 0b01#2 d)) :=
    (OnlyWrites.refl _ s).setCmdreg _ (by decide)
  cases hf : s.faultFlag with
  | true => rw [exec_update_ignored d hf] at h; cases h; exact hacc
  | false =>
    cases hl : s.lengthExhausted with
    | true =>
      rw [exec_update_fault d hf hl] at h; cases h
      exact (hacc.setDvalid _ (by decide)).setFault _ (by decide)
    | false =>
      rw [exec_update_append d hf hl] at h; cases h
      exact (hacc.setDvalid _ (by decide)).setSeq _ (by decide)

theorem execFinalize_onlyWrites {d : Byte} (h : exec (.finalize d) s = .next t) :
    OnlyWrites [.cmdreg, .dvalid, .seq] s t := by
  have hacc : OnlyWrites [.cmdreg, .dvalid, .seq] s (s.setCmdreg (cmdWord 0b10#2 d)) :=
    (OnlyWrites.refl _ s).setCmdreg _ (by decide)
  cases hf : s.faultFlag with
  | true => rw [exec_finalize_ignored d hf] at h; cases h; exact hacc
  | false =>
    rw [exec_finalize_latch d hf] at h; cases h
    exact (hacc.setDvalid _ (by decide)).setSeq _ (by decide)

theorem afterAppend_onlyWrites {fields : List Field} (h : OnlyWrites fields s t) (hx : Field.xret ∈ fields)
    (hq : Field.seq ∈ fields) : OnlyWrites fields s t.afterAppend := by
  unfold State.afterAppend
  split
  · exact (h.setXret _ hx).setSeq _ hq
  · exact h.setSeq _ hq

/-- A byte append that answers a state has its index inside BUF. -/
theorem buflen_le_of_next {e : Host.Outcome State Fault Refusal} (h : e = .next t)
    (ho : 64 ≤ s.buflen.toNat → e = .fault (.bufIndex s.buflen.toNat)) : s.buflen.toNat ≤ 63 := by
  by_contra hb
  rw [ho (by omega)] at h
  cases h

theorem execBAppend_onlyWrites (h : exec .bAppend s = .next t) : OnlyWrites [.buf, .buflen, .xret, .seq] s t := by
  simp only [exec, execBAppend] at h
  split at h
  · next ha =>
    cases h
    exact afterAppend_onlyWrites ((append_onlyWrites ha).mono (by decide)) (by decide) (by decide)
  · cases h

theorem execFTerm_onlyWrites (h : exec .fTerm s = .next t) : OnlyWrites [.buf, .buflen, .xret, .seq] s t := by
  rw [exec_fTerm (buflen_le_of_next h exec_fTerm_outside)] at h
  cases h
  exact ((((OnlyWrites.refl _ s).setBuf _ (by decide)).setBuflen _ (by decide)).setXret _ (by decide)).setSeq _
    (by decide)

theorem execFZero_onlyWrites (h : exec .fZero s = .next t) : OnlyWrites [.buf, .buflen, .seq, .free] s t := by
  rw [exec_fZero (buflen_le_of_next h exec_fZero_outside)] at h
  cases h
  exact ((((OnlyWrites.refl _ s).setBuf _ (by decide)).setBuflen _ (by decide)).setSeq _ (by decide)).setFree _
    (by decide)

/-- R37, R43: the frame of every instruction. -/
theorem exec_onlyWrites (h : exec i s = .next t) : OnlyWrites (instrWrites i) s t := by
  have hs : ∀ fields, OnlyWrites fields s s := fun fields => .refl fields s
  cases i with
  | nop => cases h; exact (hs [.cmdreg]).setCmdreg _ (by decide)
  | update => exact execUpdate_onlyWrites h
  | finalize => exact execFinalize_onlyWrites h
  | reset =>
    cases h
    exact ((((hs [.cmdreg, .dvalid, .faultFlag, .seq]).setCmdreg _ (by decide)).setDvalid _ (by decide)).setFault _
      (by decide)).setSeq _ (by decide)
  | idle => cases h; exact (hs _).setSeq _ (by decide)
  | eInit =>
    cases h
    exact ((((hs _).setH _ (by decide)).setBuflen _ (by decide)).setNblk _ (by decide)).setSeq _ (by decide)
  | bAppend => exact execBAppend_onlyWrites h
  | bRetire => cases h; exact (((hs _).setNblk _ (by decide)).setBuflen _ (by decide)).setSeq _ (by decide)
  | xLoad =>
    cases h
    exact ((((hs _).setW _ (by decide)).setWork _ (by decide)).setSeq _ (by decide)).setFree _ (by decide)
  | xRoundCh | xRoundPar1 | xRoundMaj | xRoundPar2 => exact runRound_onlyWrites h
  | xAdd => cases h; exact ((hs _).setH _ (by decide)).setSeq _ (by decide)
  | fLatch => cases h; exact ((hs _).setLenbits _ (by decide)).setSeq _ (by decide)
  | fTerm => exact execFTerm_onlyWrites h
  | fZero => exact execFZero_onlyWrites h
  | fSpill => cases h; exact (((hs _).setBuflen _ (by decide)).setXret _ (by decide)).setSeq _ (by decide)
  | fLen =>
    rw [exec_fLen] at h
    cases h
    exact (((hs _).setBuf _ (by decide)).setBuflen _ (by decide)).setSeq _ (by decide)
  | fOut => cases h; exact (((hs _).setDigest _ (by decide)).setDvalid _ (by decide)).setSeq _ (by decide)

/-- Settles O36: instruction by instruction, its setters are those of its row. -/
theorem accessSummary : Obligations.AccessSummary := by
  unfold Obligations.AccessSummary
  exact fun _ _ _ => exec_onlyWrites

/-! ### The cells of BUF -/

/-- R53: an instruction that stores nothing does not write BUF. -/
theorem buf_notMem_of_stores_none (h : instrStores i s = none) : Field.buf ∉ instrWrites i := by
  cases i with
  | bAppend | fTerm | fZero | fLen => cases h
  | _ => simp [instrWrites]

/-- R53: the cells behind one byte stored at BUFLEN. -/
theorem cells_of_append {b : Byte} (hb : s.buflen.toNat ≤ 63)
    (ht : t.buf = Memory.insert s.buf s.buflen.toNat b) : s.appendIndex + [b].length ≤ 64 ∧ ∀ k,
      t.cell k = if s.appendIndex ≤ k ∧ k < s.appendIndex + [b].length then [b][k - s.appendIndex]? else s.cell k := by
  refine ⟨Nat.succ_le_succ hb, fun k => ?_⟩
  rw [State.cell, ht]
  exact lookup_store s.buf s.buflen.toNat k [b]

/-- R53, R63: the cells behind an instruction that stores. -/
theorem cells_of_stores {a : Nat} {bs : List Byte} (h : exec i s = .next t) (hst : instrStores i s = some (a, bs)) :
    a + bs.length ≤ 64 ∧ ∀ k, t.cell k = if a ≤ k ∧ k < a + bs.length then bs[k - a]? else s.cell k := by
  cases i with
  | bAppend =>
    have hb := buflen_le_of_next h exec_bAppend_outside
    cases hst
    rcases Nat.lt_or_eq_of_le hb with hlt | heq
    · rw [exec_bAppend_room hlt] at h; cases h; exact cells_of_append hb rfl
    · rw [exec_bAppend_full heq] at h; cases h; exact cells_of_append hb rfl
  | fTerm =>
    have hb := buflen_le_of_next h exec_fTerm_outside
    cases hst
    rw [exec_fTerm hb] at h; cases h; exact cells_of_append hb rfl
  | fZero =>
    have hb := buflen_le_of_next h exec_fZero_outside
    cases hst
    rw [exec_fZero hb] at h; cases h; exact cells_of_append hb rfl
  | fLen =>
    cases hst
    rw [exec_fLen] at h; cases h
    exact ⟨Nat.le_refl 64, fun k => lookup_store s.buf 56 k (be64 s.lenbits)⟩
  | _ => cases hst

/-- Settles O37: without a store BUF is not written, and each store is one write of consecutive cells. -/
theorem everyOtherCellKeepsItsByte : Obligations.EveryOtherCellKeepsItsByte := by
  unfold Obligations.EveryOtherCellKeepsItsByte
  exact fun i s t h => ⟨fun hn k => cell_of_buf (exec_onlyWrites h .buf (buf_notMem_of_stores_none hn)) k,
    fun a bs => cells_of_stores h⟩

/-! ### The flags -/

/-- A flag that an instruction leaves as it is has not changed its value. -/
theorem absurd_of_frame {a b c d : Bool} (h : b = a) (ha : a = c) (hb : b = d) (hne : c ≠ d) {p : Prop} : p :=
  absurd (ha.symm.trans (h.symm.trans hb)) hne

/-- R33, R161: only a refused UPDATE sets FAULT. -/
theorem exec_sets_fault (h : exec i s = .next t) (hs : s.faultFlag = false) (ht : t.faultFlag = true) :
    (∃ d, i = .update d) ∧ s.lengthExhausted = true := by
  cases i with
  | update d =>
    refine ⟨⟨d, rfl⟩, ?_⟩
    by_contra hl
    rw [exec_update_append d hs (Bool.eq_false_iff.2 hl)] at h
    cases h
    exact absurd_of_frame rfl hs ht nofun
  | reset => cases h; cases ht
  | _ => exact absurd_of_frame (exec_onlyWrites h .faultFlag (by simp [instrWrites])) hs ht nofun

/-- R33, R162: only RESET clears FAULT. -/
theorem exec_clears_fault (h : exec i s = .next t) (hs : s.faultFlag = true) (ht : t.faultFlag = false) :
    ∃ d, i = .reset d := by
  cases i with
  | update d =>
    rw [exec_update_ignored d hs] at h
    cases h
    exact absurd_of_frame rfl hs ht nofun
  | reset d => exact ⟨d, rfl⟩
  | _ => exact absurd_of_frame (exec_onlyWrites h .faultFlag (by simp [instrWrites])) hs ht nofun

/-- R32, R75: an accepted command publishes no digest. -/
theorem exec_command_dvalid (h : exec i s = .next t) (hi : i.format = .cmd) (hs : s.dvalid = false) :
    t.dvalid = false := by
  cases i with
  | nop => cases h; exact hs
  | update d =>
    cases hf : s.faultFlag with
    | true => rw [exec_update_ignored d hf] at h; cases h; exact hs
    | false =>
      cases hl : s.lengthExhausted with
      | true => rw [exec_update_fault d hf hl] at h; cases h; rfl
      | false => rw [exec_update_append d hf hl] at h; cases h; rfl
  | finalize d =>
    cases hf : s.faultFlag with
    | true => rw [exec_finalize_ignored d hf] at h; cases h; exact hs
    | false => rw [exec_finalize_latch d hf] at h; cases h; rfl
  | reset => cases h; rfl
  | _ => cases hi

/-- R32, R146: only F.OUT sets DVALID. -/
theorem exec_sets_dvalid (h : exec i s = .next t) (hs : s.dvalid = false) (ht : t.dvalid = true) : i = .fOut := by
  cases i with
  | nop | update | finalize | reset => exact absurd_of_frame (exec_command_dvalid h rfl hs) rfl ht nofun
  | fOut => rfl
  | _ => exact absurd_of_frame (exec_onlyWrites h .dvalid (by simp [instrWrites])) hs ht nofun

/-- R32, R75: only a command other than NOP clears DVALID. -/
theorem exec_clears_dvalid (h : exec i s = .next t) (hs : s.dvalid = true) (ht : t.dvalid = false) :
    i.format = .cmd ∧ ∀ d, i ≠ .nop d := by
  cases i with
  | update | finalize | reset => exact ⟨rfl, nofun⟩
  | fOut => cases h; cases ht
  | _ => exact absurd_of_frame (exec_onlyWrites h .dvalid (by simp [instrWrites])) hs ht nofun

/-- R77: SEQ names micro-operations only. -/
theorem format_of_decodeSeqFields {q : Seq} (h : decodeSeqFields q.uop q.stage q.r = .ok i) : i.format = .seq := by
  have he := (decodeSeqFields_ok h).1
  cases i with
  | nop | update | finalize | reset => cases he
  | _ => rfl

theorem format_decodeCmd (c : BitVec 10) : (decodeCmd c).format = .cmd := by
  rcases decodeCmd_cases c with h | h | h | h <;> rw [h] <;> rfl

/-- R75, R77: with `rst = 0` a step runs the accepted command or the micro-operation of SEQ, told apart by format. -/
theorem step_runs (hr : s.sample.rst = false) (h : step s = .next t) : ∃ i, exec i s.dropSample = .next t ∧
    (i.format = .cmd → s.seq = seqIdle ∧ s.sample.cmdValid = true ∧ decodeCmd s.sample.cmd = i) ∧
    (i.format = .seq → decodeSeqFields s.seq.uop s.seq.stage s.seq.r = .ok i) := by
  rcases step_next_cases h with ⟨hr', -⟩ | ⟨-, hs, hv, he⟩ | ⟨-, -, i, hi, he⟩
  · rw [hr] at hr'; cases hr'
  · exact ⟨_, he, fun _ => ⟨hs, hv, rfl⟩, fun hf => absurd (hf.symm.trans (format_decodeCmd _)) nofun⟩
  · exact ⟨i, he, fun hf => absurd (hf.symm.trans (format_of_decodeSeqFields hi)) nofun, fun _ => hi⟩

/-- Settles O38: the instruction that the step runs is one of those that change the flag. -/
theorem flagsChangeOnlyWhereTheRulesSay : Obligations.FlagsChangeOnlyWhereTheRulesSay := by
  unfold Obligations.FlagsChangeOnlyWhereTheRulesSay
  intro s t hr hst
  obtain ⟨i, he, hcmd, hseq⟩ := step_runs hr hst
  refine ⟨fun hs ht => ?_, fun hs ht => ?_, fun hs ht => ?_, fun hs ht => ?_⟩
  · obtain ⟨⟨d, rfl⟩, hl⟩ := exec_sets_fault he hs ht
    obtain ⟨hq, hv, hd⟩ := hcmd rfl
    exact ⟨hq, hv, ⟨d, hd⟩, (lengthExhausted_iff s.dropSample).1 hl⟩
  · obtain ⟨d, rfl⟩ := exec_clears_fault he hs ht
    obtain ⟨hq, hv, hd⟩ := hcmd rfl
    exact ⟨hq, hv, d, hd⟩
  · obtain rfl := exec_sets_dvalid he hs ht
    exact seq_eq_of_decode (p := seqFOut) (hseq rfl) rfl
  · obtain ⟨hf, hn⟩ := exec_clears_dvalid he hs ht
    obtain ⟨hq, hv, rfl⟩ := hcmd hf
    exact ⟨hq, hv, hn⟩

/-! ### The transform's control flow -/

/-- R78: where a micro-operation of a transform goes next, from XRET alone. -/
def transformSuccessor (i : Instr) (x : XRet) : Seq :=
  match i with
  | .xLoad => seqXRound 0 0
  | .xRoundCh r => roundSuccessor 0 r
  | .xRoundPar1 r => roundSuccessor 1 r
  | .xRoundMaj r => roundSuccessor 2 r
  | .xRoundPar2 r => roundSuccessor 3 r
  | _ => addSuccessor x

theorem exec_transform_seq (hi : transformOp i = true) (h : exec i s = .next t) :
    t.seq = transformSuccessor i s.xret := by
  cases i with
  | xLoad => cases h; rfl
  | xRoundCh | xRoundPar1 | xRoundMaj | xRoundPar2 => rw [runRound_next h, roundBody_seq]; rfl
  | xAdd => cases h; rfl
  | _ => cases hi

/-- Settles O39: the successor is a function of the micro-operation and of XRET. -/
theorem transformControlIsDataIndependent : Obligations.TransformControlIsDataIndependent := by
  unfold Obligations.TransformControlIsDataIndependent
  intro i s s' t t' hi hx h h'
  rw [exec_transform_seq hi h, exec_transform_seq hi h', hx]

end Sys2Proof.Machine
end

section
/-! SUPPORT. The step at its pins, the output ports and several engines (spec/30_encoding.md R71, R75 to R79;
spec/70_reset_and_hazards.md R181, R182, R184, R196; spec/60_exceptions.md R172). -/

namespace Sys2Proof.Machine

variable {s : State}

/-! ### What a step runs -/

/-- Settles O7: the sample presents a command, and the pins move on. -/
theorem stepAcceptsThePresentedCommand : Obligations.StepAcceptsThePresentedCommand := by
  unfold Obligations.StepAcceptsThePresentedCommand
  intro s p ps hs hp hr hv
  have hsam := sample_cons hp
  rw [step_command (hsam ▸ hr) hs (hsam ▸ hv), hsam, State.dropSample, hp]
  rfl

/-- Settles O8: the packed word decodes as its fields do. -/
theorem stepRunsTheSequencerWord : Obligations.StepRunsTheSequencerWord := by
  unfold Obligations.StepRunsTheSequencerWord
  intro s i hr hd hv
  exact step_micro hr (decode_seq_word s.seq ▸ hd) hv

/-- Settles O9: the packed word is reserved as its fields are. -/
theorem stepRefusesReservedSequencerWords : Obligations.StepRefusesReservedSequencerWords := by
  unfold Obligations.StepRefusesReservedSequencerWords
  intro s e hr hd
  exact step_reserved hr (decode_seq_word s.seq ▸ hd)

/-- R184: inside a command a step reads of its sample nothing but `rst`. -/
theorem step_busy_eq (hs : s.seq.uop ≠ 0) {p : Pins} {ps : List Pins} (hr : p.rst = false) :
    step (s.setPins (p :: ps)) = step (s.setPins (Pins.quiet :: ps)) := by
  have hne : s.seq ≠ seqIdle := fun h => hs (congrArg Seq.uop h)
  cases hd : decodeSeqFields s.seq.uop s.seq.stage s.seq.r with
  | error e =>
    rw [step_reserved (s := s.setPins (p :: ps)) hr hd, step_reserved (s := s.setPins (Pins.quiet :: ps)) rfl hd]
  | ok i =>
    rw [step_micro (s := s.setPins (p :: ps)) hr hd fun h => absurd h hne,
      step_micro (s := s.setPins (Pins.quiet :: ps)) rfl hd fun h => absurd h hne]
    rfl

/-- Settles O12: both steps run the micro-operation of SEQ, or refuse it. -/
theorem wordWhileBusyHasNoEffect : Obligations.WordWhileBusyHasNoEffect := by
  unfold Obligations.WordWhileBusyHasNoEffect
  exact fun s p ps hs hr => step_busy_eq hs hr

/-! ### Hardware reset -/

/-- R182, R196: a word that waits for readiness while `rst = 1` is not presented. -/
theorem runWord_aborted (c : BitVec 10) (hr : s.sample.rst = true) :
    runWord c s = .next (.reset s.dropSample.hardwareReset) := by
  simp only [runWord, runFuel, toBoundary_aborted maxTrace hr (step_reset hr)]

/-- Settles O10: the reset is taken before SEQ is looked at. -/
theorem hardwareResetFromAnyState : Obligations.HardwareResetFromAnyState := by
  unfold Obligations.HardwareResetFromAnyState
  intro s hr
  refine ⟨cmdReady_of_reset hr, s.dropSample.hardwareReset, step_reset hr, rfl, rfl, rfl, rfl, rfl, rfl, rfl,
    fun h => ⟨(cmdReady_iff _).2 ⟨rfl, h⟩, rfl, rfl⟩, fun n => toBoundary_aborted n hr (step_reset hr), fun c cs => ?_⟩
  exact runWords_cons_reset cs (runWord_aborted c hr)

/-- Settles O11: the fields as State.reset lists them. -/
theorem resetValues : Obligations.ResetValues := by
  unfold Obligations.ResetValues
  exact ⟨rfl, rfl, rfl, rfl, rfl, rfl, fun _ => rfl, rfl⟩

/-! ### The digest port -/

/-- R71: one more byte at the low end of the port. -/
def pushByte (acc : BitVec 160) (b : Byte) : BitVec 160 := (acc <<< 8) ||| b.setWidth 160

theorem packDigest_eq (d : Vector Byte 20) : packDigest d = d.toList.foldl pushByte 0 := rfl

/-- The pushed byte is the lowest. -/
theorem pushByte_low (acc : BitVec 160) (b : Byte) : (pushByte acc b).extractLsb' 0 8 = b := by
  apply BitVec.eq_of_getLsbD_eq
  intro i hi
  have h160 : i < 160 := by omega
  simp [pushByte, hi, h160]

/-- The bytes before it move up by one. -/
theorem pushByte_high (acc : BitVec 160) (b : Byte) {m : Nat} (hm : m < 19) :
    (pushByte acc b).extractLsb' (8 * (m + 1)) 8 = acc.extractLsb' (8 * m) 8 := by
  apply BitVec.eq_of_getLsbD_eq
  intro i hi
  have h160 : 8 * (m + 1) + i < 160 := by omega
  have h8 : ¬ 8 * (m + 1) + i < 8 := by omega
  have hsub : 8 * (m + 1) + i - 8 = 8 * m + i := by omega
  have hb : b.getLsbD (8 * (m + 1) + i) = false := BitVec.getLsbD_of_ge b _ (by omega)
  rw [BitVec.getLsbD_extractLsb', BitVec.getLsbD_extractLsb', pushByte, BitVec.getLsbD_or, BitVec.getLsbD_shiftLeft,
    BitVec.getLsbD_setWidth, hsub, hb]
  simp [hi, h160, h8]

/-- R71: byte m from the low end of the packed list is its last but m. -/
theorem foldl_pushByte (l : List Byte) : ∀ (m : Nat) (hm : m < l.length), m < 20 →
    (l.foldl pushByte 0).extractLsb' (8 * m) 8 = l[l.length - 1 - m] := by
  induction l using List.reverseRecOn with
  | nil => exact fun m hm _ => absurd hm (Nat.not_lt_zero m)
  | append_singleton l b ih =>
    intro m hm h20
    rw [List.foldl_append, List.foldl_cons, List.foldl_nil]
    cases m with
    | zero => simp [pushByte_low]
    | succ m =>
      rw [List.length_append, List.length_singleton] at hm
      rw [pushByte_high _ _ (by omega), ih m (by omega) (by omega)]
      simp only [List.length_append, List.length_singleton]
      rw [List.getElem_append_left (by omega)]
      congr 1
      omega

/-- Settles O59: the ports are the registers, and the digest's bytes stand at their places. -/
theorem outputPorts : Obligations.OutputPorts := by
  unfold Obligations.OutputPorts
  intro s
  refine ⟨fun hd => ⟨packDigest s.digest, by simp [State.digestPort, hd], fun k hk => ?_⟩,
    fun hd => by simp [State.digestPort, hd], rfl, rfl, cmdReady_iff s⟩
  have hl : s.digest.toList.length = 20 := Vector.length_toList
  have h := foldl_pushByte s.digest.toList (19 - k) (by omega) (by omega)
  rw [← packDigest_eq, show 8 * (19 - k) = 152 - 8 * k by omega] at h
  rw [h]
  simp only [hl, Vector.getElem_toList]
  congr 1
  omega

/-! ### Several engines -/

variable {n : Nat}

/-- R172: steps of two engines answer the same engines in either order. -/
theorem stepInstance_comm {es : Engines n} {j k : Fin n} {t u : State} (hjk : j ≠ k) (hk : step es[k] = .next t)
    (hj : step es[j] = .next u) :
    ∃ ws, stepInstance j (es.set k t) = .next ws ∧ stepInstance k (es.set j u) = .next ws := by
  have hne : j.val ≠ k.val := fun h => hjk (Fin.ext h)
  have hj' : step (es.set k t)[j] = .next u := by simpa [Vector.getElem_set, hne.symm] using hj
  have hk' : step (es.set j u)[k] = .next t := by simpa [Vector.getElem_set, hne] using hk
  refine ⟨_, stepInstance_next hj', ?_⟩
  rw [stepInstance_next hk', Vector.set_comm _ _ hne]

/-- Settles O60: a step replaces its own engine alone, and two replacements commute. -/
theorem instancesShareNoState : Obligations.InstancesShareNoState := by
  unfold Obligations.InstancesShareNoState
  refine ⟨⟨nInstances_pos, resetInstances_get⟩, fun n es k t hk => ?_⟩
  refine ⟨es.set k t, stepInstance_next hk, by simp, fun j hjk => ?_, fun j u hjk hj => ?_⟩
  · have hne : k.val ≠ j.val := fun h => hjk (Fin.ext h.symm)
    simp [hne]
  · obtain ⟨ws, h1, h2⟩ := stepInstance_comm hjk hk hj
    exact ⟨_, ws, stepInstance_next hj, h1, h2⟩

end Sys2Proof.Machine
end
